-- ==== Sys2Proof/Word.lean ====
section
/-! DEFINITION. The word of the machine and the bit-field record. Every core register, every display
register and every PLL register is 32 bits wide (00_scope.md R9); bit 0 is the least significant bit
(R10). The arithmetic over words and fields is in Sys2Proof/Machine/Fields.lean. -/

namespace Sys2Proof

/-- A 32-bit register or command word (00_scope.md R9, R10). -/
abbrev Word := BitVec 32

/-- The place of a field in a word: its width in bits, and the bit that its least significant bit
stands at (00_scope.md R10 "at bit k", R11). -/
structure Field where
  width : Nat
  pos : Nat
  deriving DecidableEq, Repr

end Sys2Proof
end

