-- ==== Sys2Proof/Syntax.lean ====
section
/-! DEFINITION. The commands of the core (command set MSC-1): one constructor of `Instr` for each of the
twelve rows of spec/opcode_table.json (30_encoding.md R95, R97), the raw fields of a command word (R93),
and the assembler's pseudo-commands and lines (R100, R101). -/

namespace Sys2Proof

/-- The controller a command works on: c = 0 primary, c = 1 secondary (00_scope.md R8 `NCTRL`). -/
inductive Ctrl where
  | primary
  | secondary
  deriving DecidableEq, Repr, Inhabited

/-- The variant of TIMPACK, its ARG[0]: 0 standard, 1 center (30_encoding.md R97). -/
inductive Variant where
  | std
  | center
  deriving DecidableEq, Repr, Inhabited

/-- The DPMS level of DPMSSET, its ARG: 0 On, 1 Standby, 2 Suspend, 3 Off (30_encoding.md R97,
46_dpms.md R220). -/
inductive Level where
  | on
  | standby
  | suspend
  | off
  deriving DecidableEq, Repr, Inhabited

/-- The twelve commands (30_encoding.md R95, R97). No command names a core register: every other
operand is read at a fixed index of the register file (R94). -/
inductive Instr where
  /-- PLLSOLVE c (41_pll_solver.md R110). -/
  | pllsolve (c : Ctrl)
  /-- GAINCLS (42_gain_classifier.md R130). -/
  | gaincls
  /-- SCALCOMP (43_scaler.md R140). -/
  | scalcomp
  /-- TIMPACK c, v (44_timing_packer.md R170). -/
  | timpack (c : Ctrl) (v : Variant)
  /-- PLLCOMMIT c (45_atomic_update.md R200). -/
  | pllcommit (c : Ctrl)
  /-- DPMSSET c, level (46_dpms.md R220). -/
  | dpmsset (c : Ctrl) (level : Level)
  /-- MODESET c (47_modeset.md R235). -/
  | modeset (c : Ctrl)
  /-- SETBASE c (47_modeset.md R237). -/
  | setbase (c : Ctrl)
  /-- TIMPROG c (44_timing_packer.md R185). -/
  | timprog (c : Ctrl)
  /-- PLLPROG c (47_modeset.md R245). -/
  | pllprog (c : Ctrl)
  /-- BWNOTIFY c (47_modeset.md R252). -/
  | bwnotify (c : Ctrl)
  /-- SCALPROG c (43_scaler.md R158). -/
  | scalprog (c : Ctrl)
  deriving DecidableEq, Repr, Inhabited

/-- The one format, `CMD`, as it stands in a word (30_encoding.md R93): OPC bits 7:0, C bit 8,
ARG bits 10:9, ZERO bits 31:11. -/
structure RawCmd where
  opc : BitVec 8
  c : BitVec 1
  arg : BitVec 2
  zero : BitVec 21
  deriving DecidableEq, Repr

/-- The pseudo-commands of the assembler (30_encoding.md R101); there are no others. -/
inductive Pseudo where
  | blank (c : Ctrl)
  | unblank (c : Ctrl)
  | fullset (c : Ctrl)
  deriving DecidableEq, Repr

/-- The commands a pseudo-command stands for, in order (30_encoding.md R101). -/
def Pseudo.expand : Pseudo → List Instr
  | .blank c => [.dpmsset c .off]
  | .unblank c => [.dpmsset c .on]
  | .fullset c => [.dpmsset c .off, .modeset c, .dpmsset c .on]

/-- The requested timing as a command reads it (10_state.md R24, R25): unsigned values, horizontal ones
in pixels, vertical ones in scanlines; of M_FLAGS the two bits that a rule reads. -/
structure DisplayMode where
  hdisplay : Nat
  htotal : Nat
  hsyncStart : Nat
  hsyncEnd : Nat
  hblankStart : Nat
  hblankEnd : Nat
  vdisplay : Nat
  vtotal : Nat
  vsyncStart : Nat
  vsyncEnd : Nat
  vblankStart : Nat
  vblankEnd : Nat
  nhsync : Bool
  nvsync : Bool
  clock : Nat
  deriving DecidableEq, Repr

/-- The description of a clock synthesizer (10_state.md R32); the post-divider set is a parameter and no
part of it. -/
structure PllDescriptor where
  refFreq : Nat
  maxRef : Nat
  minFb : Nat
  maxFb : Nat
  refOvr : Nat
  deriving DecidableEq, Repr

end Sys2Proof
end

