-- ==== Sys2Proof/Config.lean ====
section
/-! DEFINITION. The parameters of the core as one record (00_scope.md R8: "A model takes each as a
configuration field"; 92_eei_decisions.md: every decided number is a field of the configuration record),
the names of the display and PLL registers, and the free values. The record's default values are the
definition `Sys2Proof.Machine.msc1` of Sys2Proof/Machine/Params.lean. Parameters are not state and are
not reset (70_reset_and_hazards.md R304). -/

namespace Sys2Proof

/-- The display registers of a controller block, by the spec's own names (10_state.md R40). -/
inductive DReg where
  | ctl | hTotalDisp | hSyncStrtWid | vTotalDisp | vSyncStrtWid | fbOffset | fbPitchw
  | horzStretch | vertStretch | centerCntl
  | ptHTotalDisp | ptHSyncStrtWid | ptVTotalDisp | ptVSyncStrtWid | activeH | activeV
  deriving DecidableEq, Repr

/-- The PLL registers of a clock unit (10_state.md R52 to R55). -/
inductive PReg where
  | pllRefDiv | pllFbPost | pllCntl | clkSel
  deriving DecidableEq, Repr

/-- The answer of the framebuffer manager to `Pin` (20_memory.md R78): the pinned buffer's 32-bit byte
base address and its tiling flag word, or a failure. -/
inductive PinAnswer where
  | ok (base tiling : Word)
  | fail
  deriving DecidableEq, Repr, Inhabited

/-- The parameters of the core (00_scope.md R8), and the places of the bits that the source does not
give (10_state.md, decisions D14, D17, D20, D22, D24). A place of one bit is its bit number. -/
structure Config where
  /-- `SCALING_CAPABLE[c]` (source). -/
  scalingCapable : Ctrl → Bool
  /-- `WAIT_BOUND`, reads of one busy-wait (D26). -/
  waitBound : Nat
  /-- `SETTLE_MS` (D27). -/
  settleMs : Nat
  /-- `HBLANK_CAP`, in character clocks (source). -/
  hblankCap : Nat
  /-- `CHAR_CLOCK`, pixel clocks of a character clock (source). -/
  charClock : Nat
  /-- `RATIO_MAX_H` (D13). -/
  ratioMaxH : Nat
  /-- `RATIO_MAX_V` (D13). -/
  ratioMaxV : Nat
  /-- `FREQ_UNITS_PER_MHZ` (D5). -/
  freqUnitsPerMHz : Nat
  /-- `GAIN_HI_MHZ` (source). -/
  gainHiMHz : Nat
  /-- `GAIN_MID_MHZ` (source). -/
  gainMidMHz : Nat
  /-- `GAIN_HI` (source). -/
  gainHi : Nat
  /-- `GAIN_MID` (source). -/
  gainMid : Nat
  /-- `GAIN_MIN` (source; D12). -/
  gainMin : Nat
  /-- `POST_DIVS`, the ordered set of post-dividers (source). -/
  postDivs : List Nat
  /-- `POST_CODE(i)` for each index of `POST_DIVS` (D10). -/
  postCodes : List Nat
  /-- `DR_BASE[c]`, word address of a controller's display-register block (D21). -/
  drBase : Ctrl → Nat
  /-- Offset of a display register in its block (20_memory.md R71, D21). -/
  drOffset : DReg → Nat
  /-- `PR_BASE[c]`, index base of a controller's PLL bank (D24). -/
  prBase : Ctrl → Nat
  /-- Offset of a PLL register in its bank (20_memory.md R72, D24). -/
  prOffset : PReg → Nat
  /-- `FORMATS`: each supported pixel-format code with its `BYTES` (D32). -/
  formats : List (Nat × Nat)
  /-- `TileOffset(tiling, x, y, pitch, bytes)`: open (D33). -/
  tileOffset : (tiling x y pitch : Word) → (bytes : Nat) → Nat
  /-- CTL: CTRL_EN (10_state.md R41, D22). -/
  ctrlEn : Nat
  /-- CTL: REQ_BLANK, primary only. -/
  reqBlank : Nat
  /-- CTL: HSYNC_DIS. -/
  hsyncDis : Nat
  /-- CTL: VSYNC_DIS. -/
  vsyncDis : Nat
  /-- CTL: DISP_DIS. -/
  dispDis : Nat
  /-- CTL: AUX_CRT_ON, secondary only, hardware-owned. -/
  auxCrtOn : Nat
  /-- The polarity bit of the two sync words (10_state.md R43, R45, D20). -/
  syncPol : Nat
  /-- Stretch registers: the ratio (10_state.md R47, R48, D14). -/
  stretchRatio : Field
  /-- Stretch registers: the enable bit. -/
  stretchEnable : Nat
  /-- Stretch registers: the blend bit. -/
  stretchBlend : Nat
  /-- Stretch registers: the hardware-owned auto-increment flag (D15). -/
  stretchAutoInc : Nat
  /-- Stretch registers: the size. -/
  stretchSize : Field
  /-- CENTER_CNTL: H_CENTER_EN (10_state.md R49, D17). -/
  hCenterEn : Nat
  /-- CENTER_CNTL: V_CENTER_EN. -/
  vCenterEn : Nat
  /-- PLL_REF_DIV: REF_DIV (10_state.md R52, D24). -/
  refDiv : Field
  /-- PLL_REF_DIV: ATOMIC_UPDATE_W. -/
  atomicUpdateW : Nat
  /-- PLL_REF_DIV: UPDATE_PENDING, hardware-owned and read-only. -/
  updatePending : Nat
  /-- PLL_FB_POST: FB_DIV (10_state.md R53). -/
  fbDiv : Field
  /-- PLL_FB_POST: FRAC_FB. -/
  fracFb : Field
  /-- PLL_FB_POST: POST_CODE. -/
  postCode : Field
  /-- PLL_CNTL: GAIN (10_state.md R54). -/
  gain : Field
  /-- CLK_SEL: SRC_SEL (10_state.md R55). -/
  srcSel : Nat
  /-- 93_implementation_defined.md U11: true selects the other reading of the center-mode horizontal
  total/display word (the blank width in the display field); the spec's default is false. -/
  centerBlankInDisplay : Bool
  /-- 93_implementation_defined.md U12: true makes DPMSSET write CTL only when the target differs from
  PWR[c]; the spec's default is false (write always). -/
  dpmsWriteOnChangeOnly : Bool
  /-- 93_implementation_defined.md U12: true makes DPMSSET reload the palette only when it goes from
  Blanked to On; the spec's default is false (reload whenever the target is On). -/
  dpmsReloadOnChangeOnly : Bool

/-- FREE VALUE (assumption log 1): the 32 bits drawn at the n-th draw of the machine, for a read of a
display or PLL register (20_memory.md R76, 93_implementation_defined.md U1, U3). -/
opaque Config.freeRead : Nat → Word

/-- FREE VALUE (assumption log 2): the framebuffer manager's answer drawn at the n-th draw of the
machine (20_memory.md R78, 93_implementation_defined.md U4). -/
opaque Config.freePin : Nat → PinAnswer

/-- FREE VALUE (assumption log 3): the open parameter `TileOffset(tiling, x, y, pitch, bytes)`
(47_modeset.md R240, 92_eei_decisions.md D33, 93_implementation_defined.md U5). -/
opaque Config.freeTileOffset : Word → Word → Word → Word → Nat → Nat

end Sys2Proof
end

