-- ==== Sys2Proof/Machine/Fields.lean ====
section
/-! DEFINITION. Bits, fields and integer arithmetic (00_scope.md R10 to R12). All arithmetic of the rules
is on mathematical integers; a result enters a word only through `mod 2^n`. -/

namespace Sys2Proof.Machine

/-- `field(v, n, k) = (v mod 2^n) << k`, with the Euclidean remainder (00_scope.md R11). -/
def fieldAt (v : Int) (n k : Nat) : Word := BitVec.ofNat 32 (v % (2 ^ n : Nat)).toNat <<< k

/-- A value put into a field's place (00_scope.md R11). -/
def putField (f : Field) (v : Int) : Word := fieldAt v f.width f.pos

/-- The unsigned value of n bits of w from bit k on: `w[k+n-1:k]` (00_scope.md R10). -/
def bitsAt (w : Word) (n k : Nat) : Nat := w.toNat / 2 ^ k % 2 ^ n

/-- The unsigned value a word holds in a field. -/
def getField (f : Field) (w : Word) : Nat := bitsAt w f.width f.pos

/-- The word with bit k alone set: `1 << k` (00_scope.md R10). -/
def bitWord (k : Nat) : Word := 1#32 <<< k

/-- `b << k` for a bit b. -/
def bitIf (b : Bool) (k : Nat) : Word := if b then bitWord k else 0

/-- Bit k of a word: `w[k]`. -/
def testBit (w : Word) (k : Nat) : Bool := w.getLsbD k

/-- The bits a field stands in. -/
def fieldMask (f : Field) : Word := fieldAt (2 ^ f.width - 1) f.width f.pos

/-- `a / b`, truncating toward zero (00_scope.md R12). -/
def truncDiv (a b : Int) : Int := Int.tdiv a b

/-- `ceil_div(a, b) = (a + b - 1) / b` (00_scope.md R12). -/
def ceilDiv (a b : Nat) : Nat := (a + b - 1) / b

/-- `(old & keep) | (v & ~keep)`: what a read-modify-write stores (20_memory.md R65, R69). -/
def rmwWord (old v keep : Word) : Word := (old &&& keep) ||| (v &&& ~~~keep)

end Sys2Proof.Machine
end

