-- ==== Sys2Proof/Machine/Flags.lean ====
section
/-! DEFINITION. The flags: the bits of STATUS (10_state.md R38, 60_exceptions.md R272), of M_FLAGS (R25),
of F_SOLVE (R30) and of CAPS (R31). -/

namespace Sys2Proof.Machine

/-- STATUS bit 0 BUSY: a command runs (10_state.md R38). -/
def statusBusy : Nat := 0

/-- STATUS bit 1 DONE: a command has finished. -/
def statusDone : Nat := 1

/-- STATUS bit 4 E_FORMAT: ConfigurationError, unsupported pixel format. -/
def statusEFormat : Nat := 4

/-- STATUS bit 5 E_SCALING: ConfigurationError, scaling on a controller that is not scaling-capable. -/
def statusEScaling : Nat := 5

/-- STATUS bit 6 E_ALLOC: AllocationError. -/
def statusEAlloc : Nat := 6

/-- STATUS bit 7 E_ILLEGAL: the command word was not a legal command. -/
def statusEIllegal : Nat := 7

/-- STATUS bit 8 FAST: the last PLLPROG took the fast path. -/
def statusFast : Nat := 8

/-- STATUS as the prologue of a command leaves it: BUSY alone (30_encoding.md R91). -/
def statusAtIssue : Word := bitWord statusBusy

/-- STATUS as the epilogue of a command leaves it: BUSY cleared, DONE set, the rest kept
(30_encoding.md R91). -/
def statusAtEnd (status : Word) : Word := (status &&& ~~~bitWord statusBusy) ||| bitWord statusDone

/-- M_FLAGS bit 0 INTERLACE: carried, consumed by no rule (10_state.md R25, D23). -/
def flagInterlace : Nat := 0

/-- M_FLAGS bit 1 DBLSCAN: carried, consumed by no rule. -/
def flagDblscan : Nat := 1

/-- M_FLAGS bit 2 CSYNC: carried, consumed by no rule. -/
def flagCsync : Nat := 2

/-- M_FLAGS bit 3 NHSYNC. -/
def flagNhsync : Nat := 3

/-- M_FLAGS bit 4 NVSYNC. -/
def flagNvsync : Nat := 4

/-- F_SOLVE bit 0 PREF_HIGH_FB (10_state.md R30). -/
def solvePrefHighFb : Nat := 0

/-- F_SOLVE bit 1 PREF_LOW_REF. -/
def solvePrefLowRef : Nat := 1

/-- F_SOLVE bit 2 USE_REF_OVR. -/
def solveUseRefOvr : Nat := 2

/-- F_SOLVE bit 3 NO_ODD_POST. -/
def solveNoOddPost : Nat := 3

/-- F_SOLVE bit 4 HONOR_PRESUPPLIED. -/
def solveHonorPresupplied : Nat := 4

/-- CAPS bit 0 POWER_SENSITIVE (10_state.md R31). -/
def capsPowerSensitive : Nat := 0

end Sys2Proof.Machine
end

