-- ==== Sys2Proof/Machine/State.lean ====
section
/-! DEFINITION. The state of the machine (10_state.md R20 to R59) as plain data, its reset value
(70_reset_and_hazards.md R300 to R303), and the reasons a step can stop. -/

namespace Sys2Proof.Machine

/-- The core registers by name (10_state.md R21). A name of the per-controller bank carries its
controller. The reserved indices 74 to 127 have no name: they read 0 and ignore writes (R23). -/
inductive Reg where
  -- DisplayMode (R24, R25)
  | mHdisp | mHtotal | mHss | mHse | mHbs | mHbe
  | mVdisp | mVtotal | mVss | mVse | mVbs | mVbe
  | mFlags | mClock
  -- panel and policy (R28)
  | pW | pH | sPolicy
  -- framebuffer (R29)
  | fbHandle | fbX | fbY | fbPitch | fbFormat
  -- solver and pre-supplied dividers (R30)
  | fSolve | xRef | xFb | xPost
  -- remaining operands (R31)
  | gReffreq | gRef | gFb | scHcur | scVcur | caps
  -- descriptor bank (R32)
  | dReffreq (c : Ctrl) | dMaxref (c : Ctrl) | dMinfb (c : Ctrl) | dMaxfb (c : Ctrl)
  | dRefovr (c : Ctrl)
  -- per-controller state (R33)
  | pwr (c : Ctrl) | curpol (c : Ctrl) | curfb (c : Ctrl)
  -- PLL results (R34)
  | solRef | solFb | solFrac | solPost | solPcode | solClk | solGain | gOut
  -- timing results (R35)
  | tpHtd | tpHsw | tpVtd | tpVsw | tpCtl
  -- scaler results (R36)
  | scHstr | scVstr | scCenter | scOvr
  | scPtHtd | scPtHsw | scPtVtd | scPtVsw | scActH | scActV
  -- status, sequencer phase, wait count (R38, R37, R39)
  | status | phase | waitcnt
  deriving DecidableEq, Repr

/-- The two register spaces outside the core: the display registers `DR`, addressed by word number, and
the PLL bank `PR`, addressed by index (20_memory.md R60 to R62). -/
inductive Space where
  | dr
  | pr
  deriving DecidableEq, Repr

/-- One event of the trace (20_memory.md R75). -/
inductive Event where
  | rd (sp : Space) (addr : Nat) (value : Word)
  | wr (sp : Space) (addr : Nat) (value : Word)
  | rmw (sp : Space) (addr : Nat) (v keep old new : Word)
  | pin (h : Word) (answer : PinAnswer)
  | unpin (h : Word)
  | bw (c : Ctrl) (clock : Word)
  | palette (c : Ctrl)
  | delay (ms : Nat)
  deriving DecidableEq, Repr

/-- What the host does with the core (10_state.md R22, 30_encoding.md R90, 70_reset_and_hazards.md
R300): it reads or writes a core register, issues a command word, or resets the core. -/
inductive HostOp where
  | read (i : Fin 128)
  | write (i : Fin 128) (v : Word)
  | issue (w : Word)
  | reset
  deriving DecidableEq, Repr

/-- The machine's state (10_state.md R20). `regs` is part (a), `dr` (b), `pr` (c), `pins` and the two
palette counts (d), `trace` (e). The last six fields are the model's own (assumption log 1, 2, 4):
what the host has still to do, what it has read, and the answers of the display hardware and of the
framebuffer manager. -/
structure State where
  /-- Core registers x[0] to x[73] (10_state.md R21); x[74] to x[127] hold nothing (R23). -/
  regs : Vector Word 74
  /-- Display registers (R20 (b)): (word address, word), addresses strictly rising; an unlisted
  register holds a value that no read has drawn yet (20_memory.md R76). -/
  dr : List (Nat × Word)
  /-- PLL bank (R20 (c)): (index, word), in the same form. -/
  pr : List (Nat × Word)
  /-- The framebuffer manager's pins (R57): (handle, outstanding pins), handles strictly rising, no
  count 0. -/
  pins : List (Nat × Nat)
  /-- Palette reloads of the primary controller (R20 (d), R57). -/
  palettePri : Nat
  /-- Palette reloads of the secondary controller. -/
  paletteSec : Nat
  /-- The trace (R58), oldest event first. -/
  trace : List Event
  /-- What the host does next, first operation first (30_encoding.md R90: a program is this list). -/
  host : List HostOp
  /-- What the host has read: (index, value), oldest first (10_state.md R22). -/
  hostSeen : List (Nat × Word)
  /-- Bits that the coming reads draw, one word for each read; `Config.freeRead` when exhausted. -/
  readDraws : List Word
  /-- Answers that the coming `Pin` calls draw; `Config.freePin` when exhausted. -/
  pinDraws : List PinAnswer
  /-- How many draws have been made. -/
  drawn : Nat
  deriving DecidableEq, Repr

/-- Why the machine stops with a fault. The core raises no trap and no rule stops it (60_exceptions.md
R270, R278): errors are flags of STATUS, so no fault exists. -/
inductive Fault where
  deriving DecidableEq, Repr

/-- Why the model does not go on. -/
inductive Refusal where
  /-- Raised by an arm of `exec` whose command has no meaning yet (none is left). Safe: the model stops
  where the hardware goes on. -/
  | notModelled (mnemonic : String)
  /-- Raised by `step` for `Issue` while STATUS.BUSY = 1 (20_memory.md R89, 92_eei_decisions.md D43,
  93_implementation_defined.md U9 "refuse"). Safe: outside the spec. -/
  | issueWhileBusy
  /-- Raised by `step` for `HostRead` or `HostWrite` while STATUS.BUSY = 1 (10_state.md R22,
  93_implementation_defined.md U9 "refuse"). Safe: outside the spec. -/
  | hostAccessWhileBusy
  deriving DecidableEq, Repr

/-- The machine right after reset (70_reset_and_hazards.md R301 to R303): every core register 0 but
PWR[0] = x[37] and PWR[1] = x[45], which hold 1 (Blanked); no display or PLL register listed (their
contents are drawn at the first read, R302); trace empty; nothing pinned on the core's behalf; no host
operation pending, so that the core waits for the first `Issue` (R303). -/
def State.reset : State where
  regs := ((Vector.replicate 74 0#32).set 37 1#32).set 45 1#32
  dr := []
  pr := []
  pins := []
  palettePri := 0
  paletteSec := 0
  trace := []
  host := []
  hostSeen := []
  readDraws := []
  pinDraws := []
  drawn := 0

end Sys2Proof.Machine
end

