-- ==== Sys2Proof/Machine/Ops.lean ====
section
/-! DEFINITION. The named operations: core registers (10_state.md R21, R23), the draws (20_memory.md R76,
R78), the register-I/O primitives (R63 to R69), the collaborator calls (R78 to R82), raising an error
(60_exceptions.md R271) and the frame of a command (30_encoding.md R91). The core takes no exception
(60_exceptions.md R270): `raise` is all that an error does, and the frame's epilogue is the one return. -/

namespace Sys2Proof.Machine

/-! ### Sparse tables in canonical form -/

/-- The entry of a table at a key. -/
def tableGet {α : Type} (a : Nat) : List (Nat × α) → Option α
  | [] => none
  | (b, v) :: rest => if a = b then some v else tableGet a rest

/-- A table with the entry at a key replaced, or put in its place in the rising order. -/
def tableSet {α : Type} (a : Nat) (v : α) : List (Nat × α) → List (Nat × α)
  | [] => [(a, v)]
  | (b, w) :: rest =>
    if a = b then (a, v) :: rest
    else if a < b then (a, v) :: (b, w) :: rest
    else (b, w) :: tableSet a v rest

/-- A table without the entry at a key. -/
def tableErase {α : Type} (a : Nat) : List (Nat × α) → List (Nat × α)
  | [] => []
  | (b, w) :: rest => if a = b then tableErase a rest else (b, w) :: tableErase a rest

/-- The canonical form of a table: the keys strictly rise. -/
def tableRising {α : Type} : List (Nat × α) → Bool
  | [] => true
  | [_] => true
  | (a, _) :: (b, w) :: rest => a < b && tableRising ((b, w) :: rest)

/-- The canonical form of a register space. An unlisted register has no value yet: the first read draws
it (20_memory.md R76), so no entry can equal what an unlisted address reads as. -/
def Memory.wf (m : List (Nat × Word)) : Bool := tableRising m

/-- The canonical form of the pin counts: handles strictly rise, and a handle is listed when it has an
outstanding pin. -/
def pinsWf (m : List (Nat × Nat)) : Bool := tableRising m && m.all fun e => 0 < e.2

/-! ### Core registers -/

/-- The index of a controller's bank: 32 or 40 (10_state.md R21). -/
def bankIndex (c : Ctrl) (offset : Fin 8) : Fin 74 :=
  match c with
  | .primary => ⟨32 + offset.val, by omega⟩
  | .secondary => ⟨40 + offset.val, by omega⟩

/-- The index of a core register (10_state.md R21). -/
def Reg.index : Reg → Fin 74
  | .mHdisp => 0
  | .mHtotal => 1
  | .mHss => 2
  | .mHse => 3
  | .mHbs => 4
  | .mHbe => 5
  | .mVdisp => 6
  | .mVtotal => 7
  | .mVss => 8
  | .mVse => 9
  | .mVbs => 10
  | .mVbe => 11
  | .mFlags => 12
  | .mClock => 13
  | .pW => 14
  | .pH => 15
  | .sPolicy => 16
  | .fbHandle => 17
  | .fbX => 18
  | .fbY => 19
  | .fbPitch => 20
  | .fbFormat => 21
  | .fSolve => 22
  | .xRef => 23
  | .xFb => 24
  | .xPost => 25
  | .gReffreq => 26
  | .gRef => 27
  | .gFb => 28
  | .scHcur => 29
  | .scVcur => 30
  | .caps => 31
  | .dReffreq c => bankIndex c 0
  | .dMaxref c => bankIndex c 1
  | .dMinfb c => bankIndex c 2
  | .dMaxfb c => bankIndex c 3
  | .dRefovr c => bankIndex c 4
  | .pwr c => bankIndex c 5
  | .curpol c => bankIndex c 6
  | .curfb c => bankIndex c 7
  | .solRef => 48
  | .solFb => 49
  | .solFrac => 50
  | .solPost => 51
  | .solPcode => 52
  | .solClk => 53
  | .solGain => 54
  | .gOut => 55
  | .tpHtd => 56
  | .tpHsw => 57
  | .tpVtd => 58
  | .tpVsw => 59
  | .tpCtl => 60
  | .scHstr => 61
  | .scVstr => 62
  | .scCenter => 63
  | .scOvr => 64
  | .scPtHtd => 65
  | .scPtHsw => 66
  | .scPtVtd => 67
  | .scPtVsw => 68
  | .scActH => 69
  | .scActV => 70
  | .status => 71
  | .phase => 72
  | .waitcnt => 73

/-- `x[i]` read (00_scope.md R13). -/
def State.reg (s : State) (r : Reg) : Word := s.regs[(Reg.index r).val]

/-- `x[i] <- v` for a word (00_scope.md R13). -/
def State.setReg (s : State) (r : Reg) (v : Word) : State :=
  { s with regs := s.regs.set (Reg.index r).val v }

/-- `x[i] <- v` for a natural number: v mod 2^32 is written (00_scope.md R13). -/
def State.setRegNat (s : State) (r : Reg) (v : Nat) : State := s.setReg r (BitVec.ofNat 32 v)

/-- The value of a core register as an unsigned number (00_scope.md R9). -/
def State.regNat (s : State) (r : Reg) : Nat := (s.reg r).toNat

/-! ### The trace and the draws -/

/-- One event appended to the trace (20_memory.md R75). -/
def State.log (s : State) (e : Event) : State := { s with trace := s.trace ++ [e] }

/-- The 32 bits the display hardware presents for the coming read (20_memory.md R76, U1, U3). -/
def State.nextRead (s : State) : Word := s.readDraws.headD (Config.freeRead s.drawn)

/-- The framebuffer manager's answer to the coming `Pin` (20_memory.md R78, U4). -/
def State.nextPin (s : State) : PinAnswer := s.pinDraws.headD (Config.freePin s.drawn)

/-- One read's draw is used up. -/
def State.advanceRead (s : State) : State :=
  { s with readDraws := s.readDraws.tail, drawn := s.drawn + 1 }

/-- One `Pin`'s draw is used up. -/
def State.advancePin (s : State) : State :=
  { s with pinDraws := s.pinDraws.tail, drawn := s.drawn + 1 }

/-! ### The register spaces -/

/-- The contents of a space. -/
def State.space (s : State) : Space → List (Nat × Word)
  | .dr => s.dr
  | .pr => s.pr

/-- The machine with the contents of a space replaced. -/
def State.setSpace (s : State) (sp : Space) (m : List (Nat × Word)) : State :=
  match sp with
  | .dr => { s with dr := m }
  | .pr => { s with pr := m }

/-- What a register of a space holds: the last value written, or the value its first read drew; nothing
before either (20_memory.md R76). -/
def State.held (s : State) (sp : Space) (a : Nat) : Option Word := tableGet a (s.space sp)

/-- A value stored whole into a register of a space, with no event. -/
def State.store (s : State) (sp : Space) (a : Nat) (v : Word) : State :=
  s.setSpace sp (tableSet a v (s.space sp))

/-- What the coming read of a register presents (20_memory.md R76): the hardware-owned bits (`owned`)
as drawn at this read, the others as last written; a register never written or read since reset
presents the draw whole. -/
def State.readValue (s : State) (sp : Space) (a : Nat) (owned : Word) : Word :=
  match s.held sp a with
  | some w => (w &&& ~~~owned) ||| (s.nextRead &&& owned)
  | none => s.nextRead

/-- The state after a register has been read, before the event is logged: one draw is used up, and a
value drawn for a register that held none stays fixed until written (20_memory.md R76). -/
def State.afterRead (s : State) (sp : Space) (a : Nat) : State :=
  match s.held sp a with
  | some _ => s.advanceRead
  | none => s.advanceRead.store sp a s.nextRead

/-- `MemRead` / `PllRead` (20_memory.md R63, R67). -/
def busRead (sp : Space) (a : Nat) (owned : Word) (s : State) : Word × State :=
  let v := s.readValue sp a owned
  (v, (s.afterRead sp a).log (.rd sp a v))

/-- `MemWrite` / `PllWrite` (20_memory.md R64, R68). -/
def busWrite (sp : Space) (a : Nat) (v : Word) (s : State) : State :=
  (s.store sp a v).log (.wr sp a v)

/-- `MemRmw` / `PllRmw` (20_memory.md R65, R69): one event for the read and the write. -/
def busRmw (sp : Space) (a : Nat) (owned v keep : Word) (s : State) : State :=
  let old := s.readValue sp a owned
  let new := rmwWord old v keep
  ((s.afterRead sp a).store sp a new).log (.rmw sp a v keep old new)

/-- `DR(c, NAME) = DR_BASE[c] + offset(NAME)` (20_memory.md R71). -/
def drAddr (k : Config) (c : Ctrl) (r : DReg) : Nat := k.drBase c + k.drOffset r

/-- `PR(c, NAME) = PR_BASE[c] + offset(NAME)` (20_memory.md R72). -/
def prAddr (k : Config) (c : Ctrl) (r : PReg) : Nat := k.prBase c + k.prOffset r

/-- The bits of CTL that the core writes and owns: the named bits of 10_state.md R41 but AUX_CRT_ON. -/
def ctlCoreBits (k : Config) : Ctrl → Word
  | .primary =>
    bitWord k.ctrlEn ||| bitWord k.reqBlank ||| bitWord k.hsyncDis ||| bitWord k.vsyncDis |||
      bitWord k.dispDis
  | .secondary => bitWord k.ctrlEn ||| bitWord k.hsyncDis ||| bitWord k.vsyncDis ||| bitWord k.dispDis

/-- The two bits of CENTER_CNTL that the core owns (10_state.md R49). -/
def centerBits (k : Config) : Word := bitWord k.hCenterEn ||| bitWord k.vCenterEn

/-- The hardware-owned bits of a display register (20_memory.md R76): AUX_CRT_ON and the reserved bits
of CTL, the auto-increment flags, the other bits of CENTER_CNTL. DEDUCED (assumption log 7): the
reserved bits of CTL, which 10_state.md R41 calls "preserved by a read-modify-write". -/
def drOwned (k : Config) (c : Ctrl) : DReg → Word
  | .ctl => ~~~ctlCoreBits k c
  | .hTotalDisp => 0
  | .hSyncStrtWid => 0
  | .vTotalDisp => 0
  | .vSyncStrtWid => 0
  | .fbOffset => 0
  | .fbPitchw => 0
  | .horzStretch => bitWord k.stretchAutoInc
  | .vertStretch => bitWord k.stretchAutoInc
  | .centerCntl => ~~~centerBits k
  | .ptHTotalDisp => 0
  | .ptHSyncStrtWid => 0
  | .ptVTotalDisp => 0
  | .ptVSyncStrtWid => 0
  | .activeH => 0
  | .activeV => 0

/-- The divider fields of PLL_FB_POST (10_state.md R53). -/
def fbPostBits (k : Config) : Word := fieldMask k.fbDiv ||| fieldMask k.fracFb ||| fieldMask k.postCode

/-- The hardware-owned bits of a PLL register (20_memory.md R76): UPDATE_PENDING and every bit that
10_state.md R52 to R55 call preserved. -/
def prOwned (k : Config) : PReg → Word
  | .pllRefDiv => ~~~(fieldMask k.refDiv ||| bitWord k.atomicUpdateW)
  | .pllFbPost => ~~~fbPostBits k
  | .pllCntl => ~~~fieldMask k.gain
  | .clkSel => ~~~bitWord k.srcSel

/-- `MemRead(DR(c, NAME), 4)` (20_memory.md R63). -/
def memRead (k : Config) (c : Ctrl) (r : DReg) (s : State) : Word × State :=
  busRead .dr (drAddr k c r) (drOwned k c r) s

/-- `MemWrite(DR(c, NAME), 4, v)` (20_memory.md R64). -/
def memWrite (k : Config) (c : Ctrl) (r : DReg) (v : Word) (s : State) : State :=
  busWrite .dr (drAddr k c r) v s

/-- `MemRmw(DR(c, NAME), v, keep)` (20_memory.md R65). -/
def memRmw (k : Config) (c : Ctrl) (r : DReg) (v keep : Word) (s : State) : State :=
  busRmw .dr (drAddr k c r) (drOwned k c r) v keep s

/-- `MemWrite(DR(c, NAME), 4, x[r])`: a core register's value written whole. -/
def memWriteReg (k : Config) (c : Ctrl) (r : DReg) (x : Reg) (s : State) : State :=
  memWrite k c r (s.reg x) s

/-- `MemRmw(DR(c, NAME), x[r], keep)`: a core register's value written under a keep mask. -/
def memRmwReg (k : Config) (c : Ctrl) (r : DReg) (x : Reg) (keep : Word) (s : State) : State :=
  memRmw k c r (s.reg x) keep s

/-- `PllRead(PR(c, NAME))` (20_memory.md R67). -/
def pllRead (k : Config) (c : Ctrl) (r : PReg) (s : State) : Word × State :=
  busRead .pr (prAddr k c r) (prOwned k r) s

/-- `PllWrite(PR(c, NAME), v)` (20_memory.md R68); "No rule of this spec uses it". -/
def pllWrite (k : Config) (c : Ctrl) (r : PReg) (v : Word) (s : State) : State :=
  busWrite .pr (prAddr k c r) v s

/-- `PllRmw(PR(c, NAME), v, keep)` (20_memory.md R69). -/
def pllRmw (k : Config) (c : Ctrl) (r : PReg) (v keep : Word) (s : State) : State :=
  busRmw .pr (prAddr k c r) (prOwned k r) v keep s

/-! ### The collaborators -/

/-- The outstanding pins of a handle (10_state.md R57). -/
def State.pinCount (s : State) (h : Word) : Nat := (tableGet h.toNat s.pins).getD 0

/-- The pins with one more of a handle. -/
def pinsAdd (h : Nat) (m : List (Nat × Nat)) : List (Nat × Nat) :=
  tableSet h ((tableGet h m).getD 0 + 1) m

/-- The pins with one fewer of a handle; a handle with no outstanding pin changes nothing (assumption
log 8). -/
def pinsRemove (h : Nat) (m : List (Nat × Nat)) : List (Nat × Nat) :=
  match tableGet h m with
  | none => m
  | some n => if n ≤ 1 then tableErase h m else tableSet h (n - 1) m

/-- `Pin(h)` (20_memory.md R78): the answer is drawn; a success pins the handle once more. -/
def pinHandle (h : Word) (s : State) : PinAnswer × State :=
  let a := s.nextPin
  let t := s.advancePin.log (.pin h a)
  match a with
  | .ok _ _ => (a, { t with pins := pinsAdd h.toNat t.pins })
  | .fail => (a, t)

/-- `Unpin(h)` (20_memory.md R79). -/
def unpinHandle (h : Word) (s : State) : State :=
  ({ s with pins := pinsRemove h.toNat s.pins }).log (.unpin h)

/-- `BwNotify(c, clock)` (20_memory.md R80). -/
def bwNotifyCall (c : Ctrl) (clock : Word) (s : State) : State := s.log (.bw c clock)

/-- The palette reloads made for a controller (10_state.md R20 (d), R57). -/
def State.paletteCount (s : State) : Ctrl → Nat
  | .primary => s.palettePri
  | .secondary => s.paletteSec

/-- `PaletteReload(c)` (20_memory.md R81): one event, counted. -/
def paletteReload (c : Ctrl) (s : State) : State :=
  match c with
  | .primary => ({ s with palettePri := s.palettePri + 1 }).log (.palette .primary)
  | .secondary => ({ s with paletteSec := s.paletteSec + 1 }).log (.palette .secondary)

/-- `Delay(ms)` (20_memory.md R82): the model has no time and records the event only. -/
def delayMs (ms : Nat) (s : State) : State := s.log (.delay ms)

/-! ### Errors, the sequencer phase and the frame -/

/-- `raise <Error>(info)`: the error's STATUS flag is set and nothing else happens (60_exceptions.md
R271). Whether the command stops is said by the raising rule. -/
def raise (flag : Nat) (s : State) : State := s.setReg .status (s.reg .status ||| bitWord flag)

/-- `PHASE[3:0] <- n`: the orchestrator step (10_state.md R37). -/
def setStep (n : Nat) (s : State) : State :=
  s.setReg .phase (rmwWord (s.reg .phase) (fieldAt n 4 0) (~~~fieldAt 15 4 0))

/-- `PHASE[7:4] <- n`: the step of the atomic-update protocol (10_state.md R37). -/
def setProtocolStep (n : Nat) (s : State) : State :=
  s.setReg .phase (rmwWord (s.reg .phase) (fieldAt n 4 4) (~~~fieldAt 15 4 4))

/-- The prologue of a command: `STATUS <- 0x00000001` (30_encoding.md R91). -/
def prologue (s : State) : State := s.setReg .status statusAtIssue

/-- The epilogue of a command: `PHASE <- 0; STATUS.BUSY <- 0; STATUS.DONE <- 1`, error flags and FAST
kept (30_encoding.md R91). -/
def epilogue (s : State) : State :=
  let t := s.setReg .phase 0
  t.setReg .status (statusAtEnd (t.reg .status))

/-- The frame every command runs in (30_encoding.md R91, 60_exceptions.md R270). -/
def frame (body : State → State) (s : State) : State := epilogue (body (prologue s))

end Sys2Proof.Machine
end

