-- ==== Sys2Proof/Machine/Operands.lean ====
section
/-! DEFINITION. The operand forms: what a command reads from the operand registers (30_encoding.md R94,
10_state.md R24 to R32). Every operand register is read as an unsigned 32-bit value (00_scope.md R9);
bits that a rule calls ignored are not read (93_implementation_defined.md U21). -/

namespace Sys2Proof.Machine

/-- The DisplayMode operands M_HDISP to M_CLOCK (10_state.md R24, R25, 44_timing_packer.md R171). -/
def State.mode (s : State) : DisplayMode where
  hdisplay := s.regNat .mHdisp
  htotal := s.regNat .mHtotal
  hsyncStart := s.regNat .mHss
  hsyncEnd := s.regNat .mHse
  hblankStart := s.regNat .mHbs
  hblankEnd := s.regNat .mHbe
  vdisplay := s.regNat .mVdisp
  vtotal := s.regNat .mVtotal
  vsyncStart := s.regNat .mVss
  vsyncEnd := s.regNat .mVse
  vblankStart := s.regNat .mVbs
  vblankEnd := s.regNat .mVbe
  nhsync := testBit (s.reg .mFlags) flagNhsync
  nvsync := testBit (s.reg .mFlags) flagNvsync
  clock := s.regNat .mClock

/-- The PLLDescriptor of a controller (10_state.md R32). -/
def State.descriptor (s : State) (c : Ctrl) : PllDescriptor where
  refFreq := s.regNat (.dReffreq c)
  maxRef := s.regNat (.dMaxref c)
  minFb := s.regNat (.dMinfb c)
  maxFb := s.regNat (.dMaxfb c)
  refOvr := s.regNat (.dRefovr c)

/-- The four solver flags F_SOLVE[3:0] (10_state.md R30). -/
structure SolveFlags where
  prefHighFb : Bool
  prefLowRef : Bool
  useRefOvr : Bool
  noOddPost : Bool
  deriving DecidableEq, Repr

/-- The solver flags of a value of F_SOLVE; bits 31:4 are no part of them (10_state.md R30,
41_pll_solver.md R110). -/
def solveFlagsOf (w : Word) : SolveFlags where
  prefHighFb := testBit w solvePrefHighFb
  prefLowRef := testBit w solvePrefLowRef
  useRefOvr := testBit w solveUseRefOvr
  noOddPost := testBit w solveNoOddPost

/-- F_SOLVE[4], HONOR_PRESUPPLIED (10_state.md R30). -/
def State.honorPresupplied (s : State) : Bool := testBit (s.reg .fSolve) solveHonorPresupplied

/-- CAPS[0], POWER_SENSITIVE (10_state.md R31). -/
def State.powerSensitive (s : State) : Bool := testBit (s.reg .caps) capsPowerSensitive

/-- The scaling policy (10_state.md R28). -/
inductive Policy where
  | off
  | full
  | aspect
  | center
  deriving DecidableEq, Repr

/-- The policy of `x[S_POLICY][1:0]`; the upper bits are ignored (10_state.md R26, R28). -/
def policyOf (w : Word) : Policy :=
  match bitsAt w 2 0 with
  | 0 => .off
  | 1 => .full
  | 2 => .aspect
  | _ => .center

/-- `x[S_POLICY][1:0]` as the word that CURPOL takes (47_modeset.md R255). -/
def policyBits (w : Word) : Word := BitVec.ofNat 32 (bitsAt w 2 0)

/-- `BYTES(x[FB_FORMAT])`, or none when the code is not one of `FORMATS` (47_modeset.md R238, R240). -/
def bytesOfFormat (k : Config) (code : Nat) : Option Nat := (k.formats.find? fun p => p.1 == code).map (·.2)

end Sys2Proof.Machine
end

