-- ==== Sys2Proof/Machine/Params.lean ====
section
/-! DEFINITION. The configuration of the core: the default values of 00_scope.md R8 and of
92_eei_decisions.md. -/

namespace Sys2Proof.Machine

/-- `DR_BASE[c]` (20_memory.md R71). -/
def drBaseDefault : Ctrl → Nat
  | .primary => 0x000
  | .secondary => 0x040

/-- The offsets of the display registers (20_memory.md R71; offset 0x07 is unused). -/
def drOffsetDefault : DReg → Nat
  | .ctl => 0x00
  | .hTotalDisp => 0x01
  | .hSyncStrtWid => 0x02
  | .vTotalDisp => 0x03
  | .vSyncStrtWid => 0x04
  | .fbOffset => 0x05
  | .fbPitchw => 0x06
  | .horzStretch => 0x08
  | .vertStretch => 0x09
  | .centerCntl => 0x0A
  | .ptHTotalDisp => 0x0B
  | .ptHSyncStrtWid => 0x0C
  | .ptVTotalDisp => 0x0D
  | .ptVSyncStrtWid => 0x0E
  | .activeH => 0x0F
  | .activeV => 0x10

/-- `PR_BASE[c]` (20_memory.md R72). -/
def prBaseDefault : Ctrl → Nat
  | .primary => 0x00
  | .secondary => 0x10

/-- The offsets of the PLL registers (20_memory.md R72). -/
def prOffsetDefault : PReg → Nat
  | .pllRefDiv => 0
  | .pllFbPost => 1
  | .pllCntl => 2
  | .clkSel => 3

/-- `SCALING_CAPABLE[c]` (00_scope.md R8). -/
def scalingCapableDefault : Ctrl → Bool
  | .primary => true
  | .secondary => false

/-- The configuration of command set MSC-1: the value column of 00_scope.md R8, the bit places of
10_state.md R41 to R55, and the default readings of 93_implementation_defined.md U11 and U12.
`TileOffset` stays open (assumption log 3). -/
def msc1 : Config where
  scalingCapable := scalingCapableDefault
  waitBound := 10000
  settleMs := 50
  hblankCap := 110
  charClock := 8
  ratioMaxH := 4096
  ratioMaxV := 4096
  freqUnitsPerMHz := 1000
  gainHiMHz := 300
  gainMidMHz := 180
  gainHi := 7
  gainMid := 4
  gainMin := 1
  postDivs := [1, 2, 3, 4, 6, 8, 12, 16]
  postCodes := [0, 1, 2, 3, 4, 5, 6, 7]
  drBase := drBaseDefault
  drOffset := drOffsetDefault
  prBase := prBaseDefault
  prOffset := prOffsetDefault
  formats := [(8, 1), (15, 2), (16, 2), (24, 3), (32, 4)]
  tileOffset := Config.freeTileOffset
  ctrlEn := 0
  reqBlank := 1
  hsyncDis := 4
  vsyncDis := 5
  dispDis := 6
  auxCrtOn := 8
  syncPol := 23
  stretchRatio := ⟨13, 0⟩
  stretchEnable := 13
  stretchBlend := 14
  stretchAutoInc := 15
  stretchSize := ⟨16, 16⟩
  hCenterEn := 0
  vCenterEn := 1
  refDiv := ⟨10, 0⟩
  atomicUpdateW := 15
  updatePending := 31
  fbDiv := ⟨11, 0⟩
  fracFb := ⟨4, 11⟩
  postCode := ⟨3, 16⟩
  gain := ⟨3, 11⟩
  srcSel := 0
  centerBlankInDisplay := false
  dpmsWriteOnChangeOnly := false
  dpmsReloadOnChangeOnly := false

end Sys2Proof.Machine
end

