-- ==== Sys2Proof/Machine/Commit.lean ====
section
/-! DEFINITION. The atomic PLL update protocol: `WaitPending`, `WriteDividers`, `ToggleAtomic`, `Commit` and
the command PLLCOMMIT (45_atomic_update.md). -/

namespace Sys2Proof.Machine

/-- The reads of a busy-wait after n of them, with at most `more + 1` reads left: it ends on the first
read with UPDATE_PENDING clear, or when the bound is exhausted (45_atomic_update.md R202, R203). Gives
the number of reads made and the state. -/
def waitReads (k : Config) (c : Ctrl) : (more n : Nat) → State → Nat × State
  | 0, n, s => (n + 1, (pllRead k c .pllRefDiv s).2)
  | more + 1, n, s =>
    let r := pllRead k c .pllRefDiv s
    if testBit r.1 k.updatePending then waitReads k c more (n + 1) r.2 else (n + 1, r.2)

/-- `WaitPending(c)` (45_atomic_update.md R202): WAITCNT takes the number of reads. -/
def waitPending (k : Config) (c : Ctrl) (s : State) : State :=
  let r := waitReads k c (k.waitBound - 1) 0 s
  r.2.setRegNat .waitcnt r.1

/-- The value written to PLL_FB_POST (45_atomic_update.md R204). -/
def fbPostWord (k : Config) (fb frac pcode : Nat) : Word :=
  putField k.fbDiv fb ||| putField k.fracFb frac ||| putField k.postCode pcode

/-- `WriteDividers` (45_atomic_update.md R204). -/
def writeDividers (k : Config) (c : Ctrl) (ref fb frac pcode gain : Nat) (s : State) : State :=
  pllRmw k c .pllCntl (putField k.gain gain) (~~~fieldMask k.gain)
    (pllRmw k c .pllFbPost (fbPostWord k fb frac pcode) (~~~fbPostBits k)
      (pllRmw k c .pllRefDiv (putField k.refDiv ref) (~~~fieldMask k.refDiv) s))

/-- `ToggleAtomic`: set, then clear (45_atomic_update.md R205). -/
def toggleAtomic (k : Config) (c : Ctrl) (s : State) : State :=
  pllRmw k c .pllRefDiv 0 (~~~bitWord k.atomicUpdateW)
    (pllRmw k c .pllRefDiv (bitWord k.atomicUpdateW) (~~~bitWord k.atomicUpdateW) s)

/-- `Commit(c, ref, fb, frac, pcode, gain)` (45_atomic_update.md R201). -/
def commit (k : Config) (c : Ctrl) (ref fb frac pcode gain : Nat) (s : State) : State :=
  let s := waitPending k c (setProtocolStep 1 s)
  let s := writeDividers k c ref fb frac pcode gain (setProtocolStep 2 s)
  let s := toggleAtomic k c (setProtocolStep 3 s)
  let s := waitPending k c (setProtocolStep 4 s)
  setProtocolStep 0 s

/-- `Commit` of the PLLSolution that the SOL_* registers hold (45_atomic_update.md R200, 47_modeset.md
R249). -/
def commitSolution (k : Config) (c : Ctrl) (s : State) : State :=
  commit k c (s.regNat .solRef) (s.regNat .solFb) (s.regNat .solFrac) (s.regNat .solPcode)
    (s.regNat .solGain) s

/-- PLLCOMMIT c (45_atomic_update.md R200): no delay, PHASE[3:0] stays 0. -/
def execPllcommit (c : Ctrl) (s : State) : Host.Outcome State Fault Refusal :=
  .next (frame (commitSolution msc1 c) s)

end Sys2Proof.Machine
end

