-- ==== Sys2Proof/Machine/Timing.lean ====
section
/-! DEFINITION. The timing register packer: `PackStd`, `PackCenter`, `PackCtl` and the commands TIMPACK and
TIMPROG (44_timing_packer.md). -/

namespace Sys2Proof.Machine

/-- The four timing words (44_timing_packer.md R170). -/
structure TimingWords where
  htd : Word
  hsw : Word
  vtd : Word
  vsw : Word
  deriving DecidableEq, Repr

/-- A value in character clocks: `v / 8`, truncating (44_timing_packer.md R172, 00_scope.md R12). -/
def charClocks (k : Config) (v : Int) : Int := truncDiv v k.charClock

/-- A total/display word: the total in a low field of n bits, the display in a field of m bits at bit 16
(10_state.md R42, R44). -/
def totalDispWord (n m : Nat) (total display : Int) : Word := fieldAt total n 0 ||| fieldAt display m 16

/-- The horizontal sync width, `max(1, (hsync_end - hsync_start)/8)` (44_timing_packer.md R173). -/
def hsyncWidth (k : Config) (m : DisplayMode) : Int :=
  max 1 (charClocks k ((m.hsyncEnd : Int) - m.hsyncStart))

/-- The vertical sync width, `max(1, vsync_end - vsync_start)` (44_timing_packer.md R175). -/
def vsyncWidth (m : DisplayMode) : Int := max 1 ((m.vsyncEnd : Int) - m.vsyncStart)

/-- A horizontal sync word of a sync start (10_state.md R43, 44_timing_packer.md R173). -/
def hsyncWord (k : Config) (m : DisplayMode) (start : Int) : Word :=
  fieldAt start 13 0 ||| fieldAt (hsyncWidth k m) 6 16 ||| bitIf m.nhsync k.syncPol

/-- A vertical sync word of a sync start (10_state.md R45, 44_timing_packer.md R175). -/
def vsyncWord (k : Config) (m : DisplayMode) (start : Int) : Word :=
  fieldAt start 12 0 ||| fieldAt (vsyncWidth m) 5 16 ||| bitIf m.nvsync k.syncPol

/-- The value of the standard total field, `htotal/8 - 1` (44_timing_packer.md R172). -/
def htotalField (k : Config) (m : DisplayMode) : Int := charClocks k m.htotal - 1

/-- The value of the display field, `hdisplay/8 - 1` (44_timing_packer.md R172). -/
def hdisplayField (k : Config) (m : DisplayMode) : Int := charClocks k m.hdisplay - 1

/-- `PackStd(mode)` (44_timing_packer.md R171 to R175). -/
def packStd (k : Config) (m : DisplayMode) : TimingWords where
  htd := totalDispWord 10 9 (htotalField k m) (hdisplayField k m)
  hsw := hsyncWord k m ((m.hsyncStart : Int) - 8)
  vtd := totalDispWord 16 16 ((m.vtotal : Int) - 1) ((m.vdisplay : Int) - 1)
  vsw := vsyncWord k m ((m.vsyncStart : Int) - 1)

/-- The horizontal blank width in character clocks, capped (44_timing_packer.md R180). -/
def hblankWidth (k : Config) (m : DisplayMode) : Int :=
  min (charClocks k ((m.hblankEnd : Int) - m.hblankStart)) k.hblankCap

/-- The center-mode horizontal total/display word (44_timing_packer.md R180, 90_conflicts.md C1); the
other reading of U11 when the configuration selects it. -/
def centerHtd (k : Config) (m : DisplayMode) : Word :=
  if k.centerBlankInDisplay then totalDispWord 10 9 (htotalField k m) (hblankWidth k m)
  else totalDispWord 10 9 (hblankWidth k m) (hdisplayField k m)

/-- `PackCenter(mode)` (44_timing_packer.md R180 to R184). -/
def packCenter (k : Config) (m : DisplayMode) : TimingWords where
  htd := centerHtd k m
  hsw := hsyncWord k m (charClocks k ((m.hsyncStart : Int) - m.hblankStart))
  vtd := totalDispWord 16 16 ((m.vblankEnd : Int) - m.vblankStart) ((m.vdisplay : Int) - 1)
  vsw := vsyncWord k m ((m.vsyncStart : Int) - m.vblankStart)

/-- The disable bits of CTL: HSYNC_DIS, VSYNC_DIS, DISP_DIS (10_state.md R41). -/
def disableBits (k : Config) : Word := bitWord k.hsyncDis ||| bitWord k.vsyncDis ||| bitWord k.dispDis

/-- `PackCtl(c)` of a power state PWR[1] (44_timing_packer.md R188). -/
def packCtl (k : Config) (c : Ctrl) (pwr1 : Word) : Word :=
  match c with
  | .primary => 0
  | .secondary => bitWord k.ctrlEn ||| (if pwr1 = 1 then disableBits k else 0)

/-- The result writes of TIMPACK (44_timing_packer.md R170). -/
def writeTiming (k : Config) (c : Ctrl) (t : TimingWords) (s : State) : State :=
  ((((s.setReg .tpHtd t.htd).setReg .tpHsw t.hsw).setReg .tpVtd t.vtd).setReg .tpVsw t.vsw).setReg
    .tpCtl (packCtl k c (s.reg (.pwr .secondary)))

/-- The words of a variant (44_timing_packer.md R170). -/
def packVariant (k : Config) (v : Variant) (m : DisplayMode) : TimingWords :=
  match v with
  | .std => packStd k m
  | .center => packCenter k m

/-- The body of TIMPACK (44_timing_packer.md R170). -/
def timpackBody (k : Config) (c : Ctrl) (v : Variant) (s : State) : State :=
  writeTiming k c (packVariant k v s.mode) s

/-- TIMPACK c, v (44_timing_packer.md R170). -/
def execTimpack (c : Ctrl) (v : Variant) (s : State) : Host.Outcome State Fault Refusal :=
  .next (frame (timpackBody msc1 c v) s)

/-- The secondary control word's write, for c = 1 only (44_timing_packer.md R187). -/
def programCtl (k : Config) (c : Ctrl) (s : State) : State :=
  match c with
  | .primary => s
  | .secondary => memRmwReg k .secondary .ctl .tpCtl (bitWord k.auxCrtOn) s

/-- The four timing register writes, in order (44_timing_packer.md R186). -/
def programTiming (k : Config) (c : Ctrl) (s : State) : State :=
  memWriteReg k c .vSyncStrtWid .tpVsw
    (memWriteReg k c .vTotalDisp .tpVtd
      (memWriteReg k c .hSyncStrtWid .tpHsw
        (memWriteReg k c .hTotalDisp .tpHtd s)))

/-- The body of TIMPROG (44_timing_packer.md R185): always the standard variant. -/
def timprogBody (k : Config) (c : Ctrl) (s : State) : State :=
  programTiming k c (programCtl k c (timpackBody k c .std (setStep 2 s)))

/-- TIMPROG c (44_timing_packer.md R185). -/
def execTimprog (c : Ctrl) (s : State) : Host.Outcome State Fault Refusal :=
  .next (frame (timprogBody msc1 c) s)

end Sys2Proof.Machine
end

