-- ==== Sys2Proof/Machine/Dpms.lean ====
section
/-! DEFINITION. The DPMS state machine and the command DPMSSET (46_dpms.md). -/

namespace Sys2Proof.Machine

/-- The two power states (46_dpms.md R221). -/
inductive Power where
  | on
  | blanked
  deriving DecidableEq, Repr

/-- The power state a level maps to (46_dpms.md R221). -/
def powerOfLevel : Level → Power
  | .on => .on
  | .standby => .blanked
  | .suspend => .blanked
  | .off => .blanked

/-- PWR[c]'s value of a power state: 0 On, 1 Blanked (10_state.md R33). -/
def powerWord : Power → Word
  | .on => 0
  | .blanked => 1

/-- The bits of CTL that DPMSSET writes (46_dpms.md R223, R224): the disable bits, and on the primary the
enabled-but-blanked combination. -/
def dpmsBits (k : Config) : Ctrl → Word
  | .primary => disableBits k ||| bitWord k.ctrlEn ||| bitWord k.reqBlank
  | .secondary => disableBits k

/-- The value of those bits for a target (46_dpms.md R223, R224): all of them for Blanked; for On,
CTRL_EN alone on the primary and none on the secondary. -/
def dpmsValue (k : Config) (c : Ctrl) : Power → Word
  | .blanked => dpmsBits k c
  | .on =>
    match c with
    | .primary => bitWord k.ctrlEn
    | .secondary => 0

/-- The CTL write of DPMSSET: one read-modify-write (46_dpms.md R223, R224). -/
def dpmsWrite (k : Config) (c : Ctrl) (target : Power) (s : State) : State :=
  memRmw k c .ctl (dpmsValue k c target) (~~~dpmsBits k c) s

/-- Whether DPMSSET writes CTL: always, unless the configuration selects the other reading (46_dpms.md
R226, U12). -/
def dpmsWrites (k : Config) (target : Power) (pwr : Word) : Bool :=
  !(k.dpmsWriteOnChangeOnly && pwr == powerWord target)

/-- Whether DPMSSET reloads the palette: when and only when the target is On, unless the configuration
selects the other reading (46_dpms.md R226, 90_conflicts.md C6, U12). -/
def dpmsReloads (k : Config) (target : Power) (pwr : Word) : Bool :=
  target == .on && !(k.dpmsReloadOnChangeOnly && pwr == powerWord .on)

/-- The body of DPMSSET (46_dpms.md R220): the CTL write, the palette reload, then PWR[c] (R225). -/
def dpmssetBody (k : Config) (c : Ctrl) (level : Level) (s : State) : State :=
  let target := powerOfLevel level
  let before := s.reg (.pwr c)
  let s := if dpmsWrites k target before then dpmsWrite k c target s else s
  let s := if dpmsReloads k target before then paletteReload c s else s
  s.setReg (.pwr c) (powerWord target)

/-- DPMSSET c, level (46_dpms.md R220). -/
def execDpmsset (c : Ctrl) (level : Level) (s : State) : Host.Outcome State Fault Refusal :=
  .next (frame (dpmssetBody msc1 c level) s)

end Sys2Proof.Machine
end

