-- ==== Sys2Proof/Machine/Gain.lean ====
section
/-! DEFINITION. The gain classifier: the function `Gain` and the command GAINCLS
(42_gain_classifier.md). -/

namespace Sys2Proof.Machine

/-- The gain code of a VCO frequency (42_gain_classifier.md R131): both comparisons are ≥. -/
def gainOfVco (k : Config) (vco : Nat) : Nat :=
  if k.gainHiMHz * k.freqUnitsPerMHz ≤ vco then k.gainHi
  else if k.gainMidMHz * k.freqUnitsPerMHz ≤ vco then k.gainMid
  else k.gainMin

/-- `Gain(ref_freq, ref_div, fb_div)` (42_gain_classifier.md R131): the product is formed without
overflow (R135), the quotient truncates, and a reference divider 0 gives the minimum. -/
def gainCode (k : Config) (refFreq refDiv fbDiv : Nat) : Nat :=
  if refDiv = 0 then k.gainMin else gainOfVco k (refFreq * fbDiv / refDiv)

/-- The body of GAINCLS (42_gain_classifier.md R130). -/
def gainclsBody (k : Config) (s : State) : State :=
  s.setRegNat .gOut (gainCode k (s.regNat .gReffreq) (s.regNat .gRef) (s.regNat .gFb))

/-- GAINCLS (42_gain_classifier.md R130). -/
def execGaincls (s : State) : Host.Outcome State Fault Refusal := .next (frame (gainclsBody msc1) s)

end Sys2Proof.Machine
end

