-- ==== Sys2Proof/Machine/Scaler.lean ====
section
/-! DEFINITION. The scaler parameter computer: the function `Scaler` and the commands SCALCOMP and
SCALPROG (43_scaler.md). -/

namespace Sys2Proof.Machine

/-- The center-mode overrides (43_scaler.md R148). -/
structure Overrides where
  timing : TimingWords
  actH : Word
  actV : Word
  deriving DecidableEq, Repr

/-- The result of `Scaler` (43_scaler.md R141). -/
structure ScalerResult where
  hstr : Word
  vstr : Word
  center : Word
  overrides : Option Overrides
  deriving DecidableEq, Repr

/-- The horizontal size field's value, `w/8 - 1` (43_scaler.md R142, R145). -/
def hSize (k : Config) (w : Nat) : Int := charClocks k w - 1

/-- The vertical size field's value, `h - 1` (43_scaler.md R142, R146). -/
def vSize (h : Nat) : Int := (h : Int) - 1

/-- A stretch word with the axis disabled: the size alone (43_scaler.md R142, R145, R148). -/
def disabledStretch (k : Config) (size : Int) : Word := putField k.stretchSize size

/-- The stretch ratio, `ceil_div((size + inc) * RATIO_MAX, panel)` (43_scaler.md R145, R146, R150). -/
def stretchRatioOf (ratioMax size panel : Nat) (inc : Bool) : Nat :=
  ceilDiv ((size + inc.toNat) * ratioMax) panel

/-- A stretch word with the axis enabled: ratio, enable, blend and the panel's size (43_scaler.md
R145, R146). -/
def enabledStretch (k : Config) (ratio : Nat) (panelSize : Int) : Word :=
  putField k.stretchRatio ratio ||| bitWord k.stretchEnable ||| bitWord k.stretchBlend |||
    putField k.stretchSize panelSize

/-- The horizontal stretch word under Full and Aspect, of the clamped width (43_scaler.md R145). -/
def hStretch (k : Config) (cw pw : Nat) (hinc : Bool) : Word :=
  if cw = pw then disabledStretch k (hSize k cw)
  else enabledStretch k (stretchRatioOf k.ratioMaxH cw pw hinc) (hSize k pw)

/-- The vertical stretch word under Full and Aspect, of the clamped height (43_scaler.md R146). -/
def vStretch (k : Config) (ch ph : Nat) (vinc : Bool) : Word :=
  if ch = ph then disabledStretch k (vSize ch)
  else enabledStretch k (stretchRatioOf k.ratioMaxV ch ph vinc) (vSize ph)

/-- The fallback for no panel and for Off: the requested size, unclamped (43_scaler.md R142). -/
def scalerFallback (k : Config) (w h : Nat) : ScalerResult where
  hstr := disabledStretch k (hSize k w)
  vstr := disabledStretch k (vSize h)
  center := 0
  overrides := none

/-- Full and Aspect, which are the same function (43_scaler.md R145 to R147). -/
def scalerStretch (k : Config) (cw ch pw ph : Nat) (hinc vinc : Bool) : ScalerResult where
  hstr := hStretch k cw pw hinc
  vstr := vStretch k ch ph vinc
  center := 0
  overrides := none

/-- Center (43_scaler.md R148). -/
def scalerCenter (k : Config) (cw ch pw ph : Nat) (m : DisplayMode) : ScalerResult where
  hstr := disabledStretch k (hSize k cw)
  vstr := disabledStretch k (vSize ch)
  center := centerBits k
  overrides := some ⟨packCenter k m, BitVec.ofNat 32 pw, BitVec.ofNat 32 ph⟩

/-- `Scaler(w, h, pw, ph, pol, hinc, vinc)`, with w, h and the override timing taken from the mode
(43_scaler.md R140, R141, R144). -/
def scaler (k : Config) (m : DisplayMode) (pw ph : Nat) (pol : Policy) (hinc vinc : Bool) :
    ScalerResult :=
  if pw = 0 ∨ ph = 0 then scalerFallback k m.hdisplay m.vdisplay
  else
    match pol with
    | .off => scalerFallback k m.hdisplay m.vdisplay
    | .full => scalerStretch k (min m.hdisplay pw) (min m.vdisplay ph) pw ph hinc vinc
    | .aspect => scalerStretch k (min m.hdisplay pw) (min m.vdisplay ph) pw ph hinc vinc
    | .center => scalerCenter k (min m.hdisplay pw) (min m.vdisplay ph) pw ph m

/-- The six override registers (43_scaler.md R152): the overrides, or 0 when there are none. -/
def writeOverrides (o : Overrides) (s : State) : State :=
  (((((s.setReg .scPtHtd o.timing.htd).setReg .scPtHsw o.timing.hsw).setReg .scPtVtd
    o.timing.vtd).setReg .scPtVsw o.timing.vsw).setReg .scActH o.actH).setReg .scActV o.actV

/-- The override registers when no overrides are present: 0 (43_scaler.md R152). -/
def noOverrides : Overrides := ⟨⟨0, 0, 0, 0⟩, 0, 0⟩

/-- The result writes of SCALCOMP (43_scaler.md R152). -/
def writeScaler (r : ScalerResult) (s : State) : State :=
  writeOverrides (r.overrides.getD noOverrides)
    ((((s.setReg .scHstr r.hstr).setReg .scVstr r.vstr).setReg .scCenter r.center).setReg .scOvr
      (bitIf r.overrides.isSome 0))

/-- The scaler's result for the operand registers and the two auto-increment flags (43_scaler.md R140,
R159). -/
def State.scaled (s : State) (k : Config) (hinc vinc : Bool) : ScalerResult :=
  scaler k s.mode (s.regNat .pW) (s.regNat .pH) (policyOf (s.reg .sPolicy)) hinc vinc

/-- The auto-increment flag of a stretch register's value (43_scaler.md R143). -/
def autoInc (k : Config) (w : Word) : Bool := testBit w k.stretchAutoInc

/-- The body of SCALCOMP (43_scaler.md R140). -/
def scalcompBody (k : Config) (s : State) : State :=
  writeScaler (s.scaled k (autoInc k (s.reg .scHcur)) (autoInc k (s.reg .scVcur))) s

/-- SCALCOMP (43_scaler.md R140). -/
def execScalcomp (s : State) : Host.Outcome State Fault Refusal := .next (frame (scalcompBody msc1) s)

/-- The hardware-owned flags are read, horizontal first, and the parameters computed (43_scaler.md
R159). -/
def scalerFromHardware (k : Config) (s : State) : State :=
  let h := memRead k .primary .horzStretch s
  let v := memRead k .primary .vertStretch h.2
  writeScaler (v.2.scaled k (autoInc k h.1) (autoInc k v.1)) v.2

/-- The stretch and center writes (43_scaler.md R160, R161). -/
def programStretch (k : Config) (s : State) : State :=
  memRmwReg k .primary .centerCntl .scCenter (~~~centerBits k)
    (memRmwReg k .primary .vertStretch .scVstr (bitWord k.stretchAutoInc)
      (memRmwReg k .primary .horzStretch .scHstr (bitWord k.stretchAutoInc) s))

/-- The override writes, only when SC_OVR = 1 (43_scaler.md R162). -/
def programOverrides (k : Config) (s : State) : State :=
  if s.reg .scOvr = 1 then
    memWriteReg k .primary .activeV .scActV
      (memWriteReg k .primary .activeH .scActH
        (memWriteReg k .primary .ptVSyncStrtWid .scPtVsw
          (memWriteReg k .primary .ptVTotalDisp .scPtVtd
            (memWriteReg k .primary .ptHSyncStrtWid .scPtHsw
              (memWriteReg k .primary .ptHTotalDisp .scPtHtd s)))))
  else s

/-- `x[CURPOL[c]] <- x[S_POLICY][1:0]` (47_modeset.md R255). -/
def recordPolicy (c : Ctrl) (s : State) : State := s.setReg (.curpol c) (policyBits (s.reg .sPolicy))

/-- The scaler programmed: rules R159 to R162 of 43_scaler.md in order. -/
def programScaler (k : Config) (s : State) : State :=
  programOverrides k (programStretch k (scalerFromHardware k s))

/-- The body of SCALPROG (43_scaler.md R158, 47_modeset.md R255, R256). -/
def scalprogBody (k : Config) (c : Ctrl) (s : State) : State :=
  let s := setStep 5 s
  if k.scalingCapable c then recordPolicy c (programScaler k s)
  else if policyOf (s.reg .sPolicy) = .off then recordPolicy c s
  else raise statusEScaling s

/-- SCALPROG c (43_scaler.md R158). -/
def execScalprog (c : Ctrl) (s : State) : Host.Outcome State Fault Refusal :=
  .next (frame (scalprogBody msc1 c) s)

end Sys2Proof.Machine
end

