-- ==== Sys2Proof/Machine/Solver.lean ====
section
/-! DEFINITION. The PLL divider solver: the function `Solve` and the command PLLSOLVE
(41_pll_solver.md). -/

namespace Sys2Proof.Machine

/-- One candidate (r, f, p) of the search, with the index i of p in `POST_DIVS` (41_pll_solver.md R113,
R116). -/
structure Candidate where
  r : Nat
  f : Nat
  i : Nat
  p : Nat
  deriving DecidableEq, Repr

/-- A PLLSolution (10_state.md R34). -/
structure PllSolution where
  ref : Nat
  fb : Nat
  frac : Nat
  post : Nat
  pcode : Nat
  clk : Nat
  gain : Nat
  deriving DecidableEq, Repr

/-- `POST_CODE(i)` (41_pll_solver.md R118). -/
def postCodeAt (k : Config) (i : Nat) : Nat := k.postCodes.getD i 0

/-- `PostCode(v)`: the code of the index of v in `POST_DIVS`; a value not in the set takes index 0, the
source's documented fallback (41_pll_solver.md R118, U6). -/
def postCodeOf (k : Config) (v : Nat) : Nat := postCodeAt k ((k.postDivs.findIdx? (· == v)).getD 0)

/-- `Achieved(r, f, p)` (41_pll_solver.md R114). -/
def achieved (refFreq r f p : Nat) : Nat := if r = 0 then 0 else refFreq * f / (r * p)

/-- The post-divider candidates P as (value, index): with NO_ODD_POST the even values and 1, which keep
their indices (41_pll_solver.md R111). -/
def postCandidates (k : Config) (noOdd : Bool) : List (Nat × Nat) :=
  k.postDivs.zipIdx.filter fun q => !noOdd || q.1 % 2 == 0 || q.1 == 1

/-- The reference-divider candidates R (41_pll_solver.md R112). -/
def refCandidates (d : PllDescriptor) (useOvr : Bool) : List Nat :=
  if useOvr then [d.refOvr] else List.range' 1 d.maxRef

/-- The feedback-divider candidates F; empty when min > max (41_pll_solver.md R113). -/
def fbCandidates (d : PllDescriptor) : List Nat := List.range' d.minFb (d.maxFb + 1 - d.minFb)

/-- `Cand = R × F × P` (41_pll_solver.md R113). -/
def candidates (k : Config) (d : PllDescriptor) (fl : SolveFlags) : List Candidate :=
  (refCandidates d fl.useRefOvr).flatMap fun r =>
    (fbCandidates d).flatMap fun f =>
      (postCandidates k fl.noOddPost).map fun q => ⟨r, f, q.2, q.1⟩

/-- `|a - b|` (00_scope.md R12). -/
def absDiff (a b : Nat) : Nat := (a - b) + (b - a)

/-- The error of a candidate, `|Achieved(r, f, p) - target|` (41_pll_solver.md R115, R116). -/
def candidateError (target refFreq : Nat) (x : Candidate) : Nat :=
  absDiff (achieved refFreq x.r x.f x.p) target

/-- The key of a candidate, `(err, k_ref, k_fb, i, r, f)` (41_pll_solver.md R116). -/
def candidateKey (target refFreq : Nat) (fl : SolveFlags) (x : Candidate) : List Int :=
  [candidateError target refFreq x,
   if fl.prefLowRef then x.r else 0,
   if fl.prefHighFb then -(x.f : Int) else 0,
   x.i, x.r, x.f]

/-- The lexicographic order of keys (41_pll_solver.md R116). -/
def keyLt : List Int → List Int → Bool
  | a :: as, b :: bs => if a < b then true else if b < a then false else keyLt as bs
  | _, _ => false

/-- The candidate of the smallest key among a first one and a list; the earlier one stays on a tie,
which cannot happen in `Cand`, the key being injective there (41_pll_solver.md R116). -/
def leastCandidate (key : Candidate → List Int) : Candidate → List Candidate → Candidate
  | best, [] => best
  | best, x :: rest =>
    if keyLt (key x) (key best) then leastCandidate key x rest else leastCandidate key best rest

/-- The solution that a candidate stands for (41_pll_solver.md R115). -/
def solutionOf (k : Config) (refFreq : Nat) (x : Candidate) : PllSolution where
  ref := x.r
  fb := x.f
  frac := 0
  post := x.p
  pcode := postCodeOf k x.p
  clk := achieved refFreq x.r x.f x.p
  gain := gainCode k refFreq x.r x.f

/-- The result when there is no candidate (41_pll_solver.md R119). -/
def emptySolution (k : Config) : PllSolution where
  ref := 0
  fb := 0
  frac := 0
  post := 1
  pcode := postCodeAt k 0
  clk := 0
  gain := k.gainMin

/-- `Solve(target, descriptor, flags)` (41_pll_solver.md R115, R116, R119). -/
def solve (k : Config) (target : Nat) (d : PllDescriptor) (fl : SolveFlags) : PllSolution :=
  match candidates k d fl with
  | [] => emptySolution k
  | x :: rest => solutionOf k d.refFreq (leastCandidate (candidateKey target d.refFreq fl) x rest)

/-- The result writes (41_pll_solver.md R117). -/
def writeSolution (q : PllSolution) (s : State) : State :=
  ((((((s.setRegNat .solRef q.ref).setRegNat .solFb q.fb).setRegNat .solFrac q.frac).setRegNat
    .solPost q.post).setRegNat .solPcode q.pcode).setRegNat .solClk q.clk).setRegNat .solGain q.gain

/-- The solution of the operands for a controller: target M_CLOCK, descriptor c, F_SOLVE[3:0]
(41_pll_solver.md R110). -/
def State.solved (s : State) (k : Config) (c : Ctrl) : PllSolution :=
  solve k (s.regNat .mClock) (s.descriptor c) (solveFlagsOf (s.reg .fSolve))

/-- The body of PLLSOLVE (41_pll_solver.md R110): HONOR_PRESUPPLIED is not read. -/
def pllsolveBody (k : Config) (c : Ctrl) (s : State) : State := writeSolution (s.solved k c) s

/-- PLLSOLVE c (41_pll_solver.md R110). -/
def execPllsolve (c : Ctrl) (s : State) : Host.Outcome State Fault Refusal :=
  .next (frame (pllsolveBody msc1 c) s)

end Sys2Proof.Machine
end

