-- ==== Sys2Proof/Machine/Modeset.lean ====
section
/-! DEFINITION. The mode-set sequencer and the commands MODESET, SETBASE, PLLPROG and BWNOTIFY
(47_modeset.md). -/

namespace Sys2Proof.Machine

/-! ### Step 1: SETBASE -/

/-- How a SETBASE body ends (47_modeset.md R238, R239). -/
inductive BaseEnd where
  | done
  | badFormat
  | pinFailed
  deriving DecidableEq, Repr

/-- The byte offset of (FB_X, FB_Y) in the buffer (47_modeset.md R240). -/
def scanoutOffset (k : Config) (tiling x y pitch : Word) (bytes : Nat) : Nat :=
  if tiling = 0 then (y.toNat * pitch.toNat + x.toNat) * bytes else k.tileOffset tiling x y pitch bytes

/-- The scan-out address, `(base + off) mod 2^32` (47_modeset.md R240). -/
def scanoutAddress (k : Config) (base tiling x y pitch : Word) (bytes : Nat) : Word :=
  BitVec.ofNat 32 (base.toNat + scanoutOffset k tiling x y pitch bytes)

/-- The address of the operand registers' first pixel in a pinned buffer (47_modeset.md R240). -/
def State.scanout (s : State) (k : Config) (base tiling : Word) (bytes : Nat) : Word :=
  scanoutAddress k base tiling (s.reg .fbX) (s.reg .fbY) (s.reg .fbPitch) bytes

/-- "unpin previous buffer if different" (47_modeset.md R241, R242). -/
def releaseOld (old new : Word) (s : State) : State :=
  if old ≠ 0 ∧ old ≠ new then unpinHandle old s else s

/-- The writes and the hand-over (47_modeset.md R241). -/
def programBase (k : Config) (c : Ctrl) (addr : Word) (s : State) : State :=
  let s := memWriteReg k c .fbPitchw .fbPitch (memWrite k c .fbOffset addr s)
  let s := releaseOld (s.reg (.curfb c)) (s.reg .fbHandle) s
  s.setReg (.curfb c) (s.reg .fbHandle)

/-- The steps of SETBASE from the pin on, for a supported format of `bytes` bytes (47_modeset.md R239 to
R241). -/
def pinAndProgram (k : Config) (c : Ctrl) (bytes : Nat) (s : State) : BaseEnd × State :=
  let r := pinHandle (s.reg .fbHandle) s
  match r.1 with
  | .fail => (.pinFailed, raise statusEAlloc r.2)
  | .ok base tiling => (.done, programBase k c (r.2.scanout k base tiling bytes) r.2)

/-- The body of SETBASE with how it ends (47_modeset.md R237). -/
def setbaseRun (k : Config) (c : Ctrl) (s : State) : BaseEnd × State :=
  let s := setStep 1 s
  match bytesOfFormat k (s.regNat .fbFormat) with
  | none => (.badFormat, raise statusEFormat s)
  | some bytes => pinAndProgram k c bytes s

/-- The body of SETBASE (47_modeset.md R237). -/
def setbaseBody (k : Config) (c : Ctrl) (s : State) : State := (setbaseRun k c s).2

/-- SETBASE c (47_modeset.md R237). -/
def execSetbase (c : Ctrl) (s : State) : Host.Outcome State Fault Refusal :=
  .next (frame (setbaseBody msc1 c) s)

/-! ### Step 3: PLLPROG -/

/-- The honoured solution of the pre-supplied dividers (47_modeset.md R246): not range-checked. -/
def State.honoured (s : State) (k : Config) (c : Ctrl) : PllSolution :=
  let r := s.regNat .xRef
  let f := s.regNat .xFb
  let p := s.regNat .xPost
  let refFreq := s.regNat (.dReffreq c)
  { ref := r
    fb := f
    frac := 0
    post := p
    pcode := postCodeOf k p
    clk := if r = 0 ∨ p = 0 then 0 else refFreq * f / (r * p)
    gain := gainCode k refFreq r f }

/-- Solve or honour (47_modeset.md R246). -/
def State.solution (s : State) (k : Config) (c : Ctrl) : PllSolution :=
  if s.honorPresupplied then s.honoured k c else s.solved k c

/-- Whether the latched divider triple, read back as a and b, is the solution's (47_modeset.md R247). -/
def triplesMatch (k : Config) (a b : Word) (s : State) : Bool :=
  getField k.refDiv a == s.regNat .solRef % 2 ^ k.refDiv.width &&
    getField k.fbDiv b == s.regNat .solFb % 2 ^ k.fbDiv.width &&
    getField k.postCode b == s.regNat .solPcode % 2 ^ k.postCode.width

/-- The fast path (47_modeset.md R248). -/
def fastPath (k : Config) (c : Ctrl) (s : State) : State :=
  raise statusFast (pllRmw k c .clkSel (bitWord k.srcSel) (~~~bitWord k.srcSel) s)

/-- The slow path: commit, then settle (47_modeset.md R249, R250). -/
def slowPath (k : Config) (c : Ctrl) (s : State) : State :=
  setProtocolStep 0 (delayMs k.settleMs (setProtocolStep 5 (commitSolution k c s)))

/-- The path choice (47_modeset.md R247): no read-back unless POWER_SENSITIVE. -/
def programClock (k : Config) (c : Ctrl) (s : State) : State :=
  if s.powerSensitive then
    let a := pllRead k c .pllRefDiv s
    let b := pllRead k c .pllFbPost a.2
    if triplesMatch k a.1 b.1 b.2 then fastPath k c b.2 else slowPath k c b.2
  else slowPath k c s

/-- The body of PLLPROG (47_modeset.md R245). -/
def pllprogBody (k : Config) (c : Ctrl) (s : State) : State :=
  let s := setStep 3 s
  programClock k c (writeSolution (s.solution k c) s)

/-- PLLPROG c (47_modeset.md R245). -/
def execPllprog (c : Ctrl) (s : State) : Host.Outcome State Fault Refusal :=
  .next (frame (pllprogBody msc1 c) s)

/-! ### Step 4: BWNOTIFY -/

/-- The body of BWNOTIFY (47_modeset.md R252). -/
def bwnotifyBody (c : Ctrl) (s : State) : State :=
  let s := setStep 4 s
  bwNotifyCall c (s.reg .solClk) s

/-- BWNOTIFY c (47_modeset.md R252). -/
def execBwnotify (c : Ctrl) (s : State) : Host.Outcome State Fault Refusal :=
  .next (frame (bwnotifyBody c) s)

/-! ### The sequence: MODESET -/

/-- Steps 2 to 5 of a mode set (47_modeset.md R236). -/
def modesetRest (k : Config) (c : Ctrl) (s : State) : State :=
  scalprogBody k c (bwnotifyBody c (pllprogBody k c (timprogBody k c s)))

/-- The body of MODESET (47_modeset.md R235, R236): an AllocationError in step 1 ends it. -/
def modesetBody (k : Config) (c : Ctrl) (s : State) : State :=
  match setbaseRun k c s with
  | (.pinFailed, s) => s
  | (.badFormat, s) => modesetRest k c s
  | (.done, s) => modesetRest k c s

/-- MODESET c (47_modeset.md R235). -/
def execModeset (c : Ctrl) (s : State) : Host.Outcome State Fault Refusal :=
  .next (frame (modesetBody msc1 c) s)

end Sys2Proof.Machine
end

