-- ==== Sys2Proof/Machine/Dispatch.lean ====
section
/-! DEFINITION. The dispatch: one arm for each command (30_encoding.md R95, R97). -/

namespace Sys2Proof.Machine

def exec (i : Instr) (s : State) : Host.Outcome State Fault Refusal :=
  match i with
  | .pllsolve c => Sys2Proof.Machine.execPllsolve c s
  | .gaincls => Sys2Proof.Machine.execGaincls s
  | .scalcomp => Sys2Proof.Machine.execScalcomp s
  | .timpack c v => Sys2Proof.Machine.execTimpack c v s
  | .pllcommit c => Sys2Proof.Machine.execPllcommit c s
  | .dpmsset c level => Sys2Proof.Machine.execDpmsset c level s
  | .modeset c => Sys2Proof.Machine.execModeset c s
  | .setbase c => Sys2Proof.Machine.execSetbase c s
  | .timprog c => Sys2Proof.Machine.execTimprog c s
  | .pllprog c => Sys2Proof.Machine.execPllprog c s
  | .bwnotify c => Sys2Proof.Machine.execBwnotify c s
  | .scalprog c => Sys2Proof.Machine.execScalprog c s

end Sys2Proof.Machine
end

