-- ==== Sys2Proof/Decode.lean ====
section
/-! DEFINITION. The decoder, total on every 32-bit word (30_encoding.md R91 "Decode by rule R97", R98,
R99), and the encoder (R97, R100: `OPC | c << 8 | arg << 9`). A command word is handed over whole: it has
no byte order (20_memory.md R74, R87). -/

namespace Sys2Proof

/-- Why a word is no command (30_encoding.md R98, in the rule's order). -/
inductive IllegalWord where
  /-- OPC = 0x00 or OPC ≥ 0x0D. -/
  | opcode
  /-- A bit of 31:11 is set. -/
  | zeroField
  /-- C = 1 on a command that takes no controller. -/
  | controller
  /-- ARG ≠ 0 on a command whose ARG column says 0, or ARG[1] = 1 on TIMPACK. -/
  | argument
  deriving DecidableEq, Repr

/-- What a word decodes to. -/
inductive Decoded where
  | instr (i : Instr)
  | illegal (why : IllegalWord)
  deriving DecidableEq, Repr

/-- The fields of a command word (30_encoding.md R93). -/
def rawOfWord (w : Word) : RawCmd where
  opc := w.extractLsb' 0 8
  c := w.extractLsb' 8 1
  arg := w.extractLsb' 9 2
  zero := w.extractLsb' 11 21

/-- The controller of the C bit (30_encoding.md R94). -/
def ctrlOfBit (c : BitVec 1) : Ctrl := if c = 0 then .primary else .secondary

/-- The level of the ARG bits of DPMSSET (30_encoding.md R97). -/
def levelOfArg (a : BitVec 2) : Level :=
  if a = 0 then .on else if a = 1 then .standby else if a = 2 then .suspend else .off

/-- A command that takes C and whose ARG column says 0. -/
def decodeCtrl (r : RawCmd) (f : Ctrl → Instr) : Decoded :=
  if r.arg = 0 then .instr (f (ctrlOfBit r.c)) else .illegal .argument

/-- A command that takes neither C nor ARG. -/
def decodePlain (r : RawCmd) (i : Instr) : Decoded :=
  if r.c ≠ 0 then .illegal .controller
  else if r.arg ≠ 0 then .illegal .argument
  else .instr i

/-- TIMPACK: ARG[0] is the variant, ARG[1] must be 0. -/
def decodeTimpack (r : RawCmd) : Decoded :=
  if r.arg = 0 then .instr (.timpack (ctrlOfBit r.c) .std)
  else if r.arg = 1 then .instr (.timpack (ctrlOfBit r.c) .center)
  else .illegal .argument

/-- The command of the fields, by the opcode map (30_encoding.md R97, R98). -/
def decodeRaw (r : RawCmd) : Decoded :=
  if r.zero ≠ 0 then .illegal .zeroField
  else match r.opc.toNat with
    | 1 => decodeCtrl r .pllsolve
    | 2 => decodePlain r .gaincls
    | 3 => decodePlain r .scalcomp
    | 4 => decodeTimpack r
    | 5 => decodeCtrl r .pllcommit
    | 6 => .instr (.dpmsset (ctrlOfBit r.c) (levelOfArg r.arg))
    | 7 => decodeCtrl r .modeset
    | 8 => decodeCtrl r .setbase
    | 9 => decodeCtrl r .timprog
    | 10 => decodeCtrl r .pllprog
    | 11 => decodeCtrl r .bwnotify
    | 12 => decodeCtrl r .scalprog
    | _ => .illegal .opcode

/-- The command a word stands for, or why it is none (30_encoding.md R97, R98). -/
def decode (w : Word) : Decoded := decodeRaw (rawOfWord w)

/-- The bit C of a controller (30_encoding.md R93). -/
def ctrlBit : Ctrl → Nat
  | .primary => 0
  | .secondary => 1

/-- The ARG bits of a DPMS level (30_encoding.md R97). -/
def levelArg : Level → Nat
  | .on => 0
  | .standby => 1
  | .suspend => 2
  | .off => 3

/-- The ARG bits of a TIMPACK variant (30_encoding.md R97). -/
def variantArg : Variant → Nat
  | .std => 0
  | .center => 1

/-- `OPC | c << 8 | arg << 9` (30_encoding.md R100). -/
def cmdWord (opc c arg : Nat) : Word :=
  BitVec.ofNat 32 opc ||| (BitVec.ofNat 32 c <<< 8) ||| (BitVec.ofNat 32 arg <<< 9)

/-- The command word of an instruction (30_encoding.md R97, R100). -/
def encode : Instr → Word
  | .pllsolve c => cmdWord 0x01 (ctrlBit c) 0
  | .gaincls => cmdWord 0x02 0 0
  | .scalcomp => cmdWord 0x03 0 0
  | .timpack c v => cmdWord 0x04 (ctrlBit c) (variantArg v)
  | .pllcommit c => cmdWord 0x05 (ctrlBit c) 0
  | .dpmsset c l => cmdWord 0x06 (ctrlBit c) (levelArg l)
  | .modeset c => cmdWord 0x07 (ctrlBit c) 0
  | .setbase c => cmdWord 0x08 (ctrlBit c) 0
  | .timprog c => cmdWord 0x09 (ctrlBit c) 0
  | .pllprog c => cmdWord 0x0A (ctrlBit c) 0
  | .bwnotify c => cmdWord 0x0B (ctrlBit c) 0
  | .scalprog c => cmdWord 0x0C (ctrlBit c) 0

/-- The match and mask of an instruction's row (30_encoding.md R97). -/
def rowMatchMask : Instr → Word × Word
  | .pllsolve _ => (0x00000001, 0xFFFFFEFF)
  | .gaincls => (0x00000002, 0xFFFFFFFF)
  | .scalcomp => (0x00000003, 0xFFFFFFFF)
  | .timpack _ _ => (0x00000004, 0xFFFFFCFF)
  | .pllcommit _ => (0x00000005, 0xFFFFFEFF)
  | .dpmsset _ _ => (0x00000006, 0xFFFFF8FF)
  | .modeset _ => (0x00000007, 0xFFFFFEFF)
  | .setbase _ => (0x00000008, 0xFFFFFEFF)
  | .timprog _ => (0x00000009, 0xFFFFFEFF)
  | .pllprog _ => (0x0000000A, 0xFFFFFEFF)
  | .bwnotify _ => (0x0000000B, 0xFFFFFEFF)
  | .scalprog _ => (0x0000000C, 0xFFFFFEFF)

/-- The command word whose low `nbits` bits are those of `w`, every bit above 0. -/
def tableWord (nbits w : Nat) : Word := BitVec.ofNat 32 (w % 2 ^ nbits)

/-- The instruction the decoder reads from the bits of a table row's word. -/
def decodeTableWord (nbits w : Nat) : Option Instr :=
  match decode (tableWord nbits w) with
  | .instr i => some i
  | .illegal _ => none

end Sys2Proof
end

