-- ==== Sys2Proof/Machine/Host.lean ====
section
/-! DEFINITION. What the host does with the core: `HostRead`, `HostWrite`, `Issue`, reset
(10_state.md R22, R23, 30_encoding.md R90, R98, 70_reset_and_hazards.md R300). -/

namespace Sys2Proof.Machine

/-- STATUS.BUSY (10_state.md R38). -/
def State.busy (s : State) : Bool := testBit (s.reg .status) statusBusy

/-- The registers the host may write (10_state.md R21): indices 0 to 31 and the two descriptors. -/
def hostWritable (i : Nat) : Bool := i ≤ 36 || (40 ≤ i && i ≤ 44)

/-- The value of index i (10_state.md R21); a reserved register reads 0 (R23). -/
def State.readIndex (s : State) (i : Nat) : Word := s.regs.toList.getD i 0

/-- `HostRead(i)` (10_state.md R22): the host receives the register's value. -/
def hostRead (i : Fin 128) (s : State) : State :=
  { s with hostSeen := s.hostSeen ++ [(i.val, s.readIndex i.val)] }

/-- `HostWrite(i, v)` (10_state.md R22): an `rw` register takes the value; an `ro` or reserved register
is unchanged. -/
def hostWrite (i : Fin 128) (v : Word) (s : State) : State :=
  if h : i.val < 74 then
    if hostWritable i.val then { s with regs := s.regs.set i.val v } else s
  else s

/-- Reset applied to the core alone (70_reset_and_hazards.md R300, R301, R303): the core registers and
the trace; the display hardware, the PLL bank, the framebuffer manager and the host are not touched.
The palette counts are counts of trace events (10_state.md R57) and go with the trace. -/
def coreReset (s : State) : State :=
  { s with regs := State.reset.regs, trace := [], palettePri := 0, paletteSec := 0 }

/-- An illegal command word (30_encoding.md R98, 60_exceptions.md R277): STATUS.E_ILLEGAL in the frame
of a command, and nothing else. -/
def illegalCommand (s : State) : State := frame (raise statusEIllegal) s

/-- The coming host operation is taken from the host's list. -/
def State.popHost (s : State) : State := { s with host := s.host.tail }

/-- An access of the host to the register file, accepted only while no command runs (10_state.md R22,
U9). -/
def hostAccess (access : State → State) (s : State) : Host.Outcome State Fault Refusal :=
  if s.busy then .refused .hostAccessWhileBusy else .next (access s)

/-- `Issue(w)` (30_encoding.md R90, R91): accepted only while no command runs (U9); the word is decoded,
and `run` is what a legal command does. -/
def issueWord (run : Instr → State → Host.Outcome State Fault Refusal) (w : Word) (s : State) :
    Host.Outcome State Fault Refusal :=
  if s.busy then .refused .issueWhileBusy
  else
    match decode w with
    | .instr i => run i s
    | .illegal _ => .next (illegalCommand s)

/-- One host operation. -/
def hostStep (run : Instr → State → Host.Outcome State Fault Refusal) (op : HostOp) (s : State) :
    Host.Outcome State Fault Refusal :=
  match op with
  | .read i => hostAccess (hostRead i) s
  | .write i v => hostAccess (hostWrite i v) s
  | .issue w => issueWord run w s
  | .reset => .next (coreReset s)

/-- One step of the machine: the coming host operation, run to completion (30_encoding.md R90 "blocking");
with none the core waits (70_reset_and_hazards.md R303). -/
def stepWith (run : Instr → State → Host.Outcome State Fault Refusal) (s : State) :
    Host.Outcome State Fault Refusal :=
  match s.host with
  | [] => .next s
  | op :: _ => hostStep run op s.popHost

/-- The machine with a command word issued next, before what the host has still to do. -/
def State.issueNext (s : State) (w : Word) : State := { s with host := .issue w :: s.host }

end Sys2Proof.Machine
end

