-- ==== Sys2Proof/Machine/Step.lean ====
section
/-! DEFINITION. The step. There is no program counter and no fetch (10_state.md R37, 20_memory.md R87): a
step runs the host's coming operation, and a command runs to completion in the step that issues it
(30_encoding.md R90, R92). -/

namespace Sys2Proof.Machine

/-- One step of the machine. -/
def step (s : State) : Host.Outcome State Fault Refusal := stepWith exec s

/-- The machine with the command word of the low `nbits` bits of `w` issued next: the host's coming
operation is `Issue` of that word (assumption log 4). -/
def State.withFetchWord (s : State) (nbits w : Nat) : State := s.issueNext (tableWord nbits w)

end Sys2Proof.Machine
end

