-- ==== Sys2Proof/Safety.lean ====
section
/-! DEFINITION. The terms that claims use: the invariant of the machine, what a command leaves alone, and
the formulas of the rules written over integers and bits, apart from the functions that the meanings
call. The core cannot fault (60_exceptions.md R270), so a safe run is one in which the invariant holds
and no command is issued while another runs. -/

namespace Sys2Proof.Safety

open Sys2Proof Sys2Proof.Machine

/-! ### Addresses -/

/-- The word addresses of the 23 display registers (20_memory.md R71). -/
def drWords : List Nat :=
  [0x000, 0x001, 0x002, 0x003, 0x004, 0x005, 0x006,
   0x008, 0x009, 0x00A, 0x00B, 0x00C, 0x00D, 0x00E, 0x00F, 0x010,
   0x040, 0x041, 0x042, 0x043, 0x044, 0x045, 0x046]

/-- The eight PLL indices (20_memory.md R72). -/
def prWords : List Nat := [0x00, 0x01, 0x02, 0x03, 0x10, 0x11, 0x12, 0x13]

/-- The addresses of a space that the core issues. -/
def wordsOf : Space → List Nat
  | .dr => drWords
  | .pr => prWords

/-- `DR_BASE[c]` (20_memory.md R71). -/
def drBlock : Ctrl → Nat
  | .primary => 0x000
  | .secondary => 0x040

/-- `PR_BASE[c]` (20_memory.md R72). -/
def prBlock : Ctrl → Nat
  | .primary => 0x00
  | .secondary => 0x10

/-- Whether an address stands in a controller's block of display registers or in its PLL bank. -/
def inBlock (c : Ctrl) : Space → Nat → Prop
  | .dr, a => drBlock c ≤ a ∧ a < drBlock c + 0x40
  | .pr, a => prBlock c ≤ a ∧ a < prBlock c + 0x10

/-- The other controller. -/
def other : Ctrl → Ctrl
  | .primary => .secondary
  | .secondary => .primary

/-- The controller of a command that takes one (30_encoding.md R97). -/
def ctrlOf : Instr → Option Ctrl
  | .pllsolve c => some c
  | .gaincls => none
  | .scalcomp => none
  | .timpack c _ => some c
  | .pllcommit c => some c
  | .dpmsset c _ => some c
  | .modeset c => some c
  | .setbase c => some c
  | .timprog c => some c
  | .pllprog c => some c
  | .bwnotify c => some c
  | .scalprog c => some c

/-- Whether an event concerns controller c alone: its registers, its notification, its palette; a pin, an
unpin and a delay concern no controller. -/
def eventOf (c : Ctrl) : Event → Prop
  | .rd sp a _ => inBlock c sp a
  | .wr sp a _ => inBlock c sp a
  | .rmw sp a _ _ _ _ => inBlock c sp a
  | .bw d _ => d = c
  | .palette d => d = c
  | .pin _ _ => True
  | .unpin _ => True
  | .delay _ => True

/-! ### What a step leaves alone -/

/-- Every core register but the listed ones is unchanged. -/
def RegsKept (rs : List Reg) (s t : State) : Prop := ∀ r, r ∉ rs → t.reg r = s.reg r

/-- Every display and PLL register but the listed ones holds what it held. -/
def HeldKept (ws : List (Space × Nat)) (s t : State) : Prop :=
  ∀ sp a, (sp, a) ∉ ws → t.held sp a = s.held sp a

/-- A register that is only read holds what it held, if it held a value. -/
def ReadOnly (sp : Space) (a : Nat) (s t : State) : Prop :=
  ∀ w, s.held sp a = some w → t.held sp a = some w

/-- The pins and the palette counts are unchanged. -/
def NoCollab (s t : State) : Prop :=
  t.pins = s.pins ∧ t.palettePri = s.palettePri ∧ t.paletteSec = s.paletteSec

/-- What the host has still to do and what it has read are unchanged. -/
def HostKept (s t : State) : Prop := t.host = s.host ∧ t.hostSeen = s.hostSeen

/-- So many reads and pins have drawn an answer. -/
def Drew (reads pins : Nat) (s t : State) : Prop :=
  t.readDraws = s.readDraws.drop reads ∧ t.pinDraws = s.pinDraws.drop pins ∧
    t.drawn = s.drawn + reads + pins

/-- Only core registers among the listed ones change: no bus operation, no collaborator call, nothing
drawn. -/
def PureOn (rs : List Reg) (s t : State) : Prop :=
  RegsKept rs s t ∧ HeldKept [] s t ∧ t = { s with regs := t.regs }

/-- How a command ends: STATUS at a value, PHASE at 0 (30_encoding.md R91). -/
def Ended (status : Word) (t : State) : Prop := t.reg .status = status ∧ t.reg .phase = 0

/-- The bits that a read must present when the register holds a value: those outside `owned`
(20_memory.md R76). -/
def Answers (s : State) (sp : Space) (a : Nat) (owned v : Word) : Prop :=
  ∀ w, s.held sp a = some w → v &&& ~~~owned = w &&& ~~~owned

/-- The bits that the n-th coming read draws, counted from 0 (20_memory.md R76, assumption log 1). -/
def drawAt (s : State) (n : Nat) : Word :=
  (s.readDraws.drop n).headD (Config.freeRead (s.drawn + n))

/-- What a register holds once it has been read, when its first read is the n-th coming one: what it
held, or that read's draw, which then stays (20_memory.md R76). -/
def heldAt (s : State) (sp : Space) (a n : Nat) : Word := (s.held sp a).getD (drawAt s n)

/-- The word a read presents (20_memory.md R76): what the register holds, but for the hardware-owned bits,
which are those drawn. -/
def presented (owned held draw : Word) : Word := (held &&& ~~~owned) ||| (draw &&& owned)

/-- The word that the n-th coming read presents, when it is the first operation on its register. -/
def readAt (s : State) (sp : Space) (a : Nat) (owned : Word) (n : Nat) : Word :=
  presented owned (heldAt s sp a n) (drawAt s n)

/-- The seven SOL_* registers. -/
def solRegs : List Reg := [.solRef, .solFb, .solFrac, .solPost, .solPcode, .solClk, .solGain]

/-- The five TP_* registers. -/
def tpRegs : List Reg := [.tpHtd, .tpHsw, .tpVtd, .tpVsw, .tpCtl]

/-- The six override registers. -/
def ovrRegs : List Reg := [.scPtHtd, .scPtHsw, .scPtVtd, .scPtVsw, .scActH, .scActV]

/-- The ten SC_* result registers. -/
def scRegs : List Reg := [.scHstr, .scVstr, .scCenter, .scOvr] ++ ovrRegs

/-! ### The invariant -/

/-- The register spaces and the pin counts are in canonical form, and list only registers that exist. -/
def storageLegal (s : State) : Prop :=
  Memory.wf s.dr = true ∧ Memory.wf s.pr = true ∧ pinsWf s.pins = true ∧
    (∀ e ∈ s.dr, e.1 ∈ drWords) ∧ (∀ e ∈ s.pr, e.1 ∈ prWords)

/-- The values STATUS can have between commands (10_state.md R38, 47_modeset.md R257, 60_exceptions.md
R279): 0 after reset; else DONE with E_ILLEGAL alone, E_ALLOC alone, or any of E_FORMAT, E_SCALING and
FAST. -/
def legalStatus : List Word :=
  [0x000, 0x002, 0x012, 0x022, 0x032, 0x042, 0x082, 0x102, 0x112, 0x122, 0x132]

/-- STATUS is legal and PHASE is 0 (10_state.md R37 "PHASE is 0 whenever no command runs"). -/
def statusLegal (s : State) : Prop := s.reg .status ∈ legalStatus ∧ s.reg .phase = 0

/-- A computed stretch word: bit 15 is 0 (10_state.md R36), enable and blend are equal, a disabled axis
has ratio 0 and an enabled one a ratio of at most 4096 (43_scaler.md R150, R151). -/
def stretchLegal (w : Word) : Prop :=
  testBit w 15 = false ∧ testBit w 13 = testBit w 14 ∧
    (testBit w 13 = false → bitsAt w 13 0 = 0) ∧ bitsAt w 13 0 ≤ 4096

/-- The unnamed bits of a horizontal total/display word, a horizontal sync word and a vertical sync word
are 0 (10_state.md R42, R43, R45). -/
def timingLegal (htd hsw vsw : Word) : Prop :=
  htd &&& 0xFE00FC00#32 = 0 ∧ hsw &&& 0xFF40E000#32 = 0 ∧ vsw &&& 0xFF60F000#32 = 0

/-- The override registers go with SC_OVR (10_state.md R36, 43_scaler.md R148, R149, R152). -/
def overridesLegal (s : State) : Prop :=
  (s.reg .scOvr = 1 ∧ s.reg .scCenter = 3) ∨
    (s.reg .scOvr = 0 ∧ s.reg .scCenter = 0 ∧ ∀ r ∈ ovrRegs, s.reg r = 0)

/-- The per-controller state and the result registers hold values that a command can have left or reset
gives (10_state.md R33 to R39). -/
def resultsLegal (s : State) : Prop :=
  (∀ c, s.reg (.pwr c) = 0 ∨ s.reg (.pwr c) = 1) ∧
  s.regNat (.curpol .primary) ≤ 3 ∧ s.reg (.curpol .secondary) = 0 ∧
  s.reg .solFrac = 0 ∧ s.regNat .solPcode ≤ 7 ∧
  s.regNat .solGain ∈ [0, 1, 4, 7] ∧ s.regNat .gOut ∈ [0, 1, 4, 7] ∧
  s.regNat .waitcnt ≤ 10000 ∧
  s.regNat .tpCtl ∈ [0, 1, 0x71] ∧
  timingLegal (s.reg .tpHtd) (s.reg .tpHsw) (s.reg .tpVsw) ∧
  timingLegal (s.reg .scPtHtd) (s.reg .scPtHsw) (s.reg .scPtVsw) ∧
  stretchLegal (s.reg .scHstr) ∧ stretchLegal (s.reg .scVstr) ∧ overridesLegal s

/-- An event that the core can make: an address that exists; a read-modify-write whose value has no bit
under the keep mask and whose new word follows (20_memory.md R65, R69); no `PllWrite` (R68); the one
delay (00_scope.md R8 `SETTLE_MS`). -/
def eventLegal : Event → Prop
  | .rd sp a _ => a ∈ wordsOf sp
  | .wr sp a _ => sp = .dr ∧ a ∈ drWords
  | .rmw sp a v keep old new => a ∈ wordsOf sp ∧ v &&& keep = 0 ∧ new = (old &&& keep) ||| v
  | .pin _ _ => True
  | .unpin _ => True
  | .bw _ _ => True
  | .palette _ => True
  | .delay ms => ms = 50

/-- The trace holds legal events only, and the palette counts count its reloads (10_state.md R57, R58). -/
def traceLegal (s : State) : Prop :=
  (∀ e ∈ s.trace, eventLegal e) ∧
    s.palettePri = s.trace.count (.palette .primary) ∧
    s.paletteSec = s.trace.count (.palette .secondary)

/-- How many controllers scan out a handle. -/
def scannedBy (s : State) (h : Word) : Nat :=
  (if s.reg (.curfb .primary) = h then 1 else 0) + (if s.reg (.curfb .secondary) = h then 1 else 0)

/-- Every handle that a controller scans out has a pin for it ("scan-out never reads an unpinned buffer",
47_modeset.md R241); handle 0 is none (R242). -/
def scanoutPinned (s : State) : Prop := ∀ h : Word, h ≠ 0 → scannedBy s h ≤ s.pinCount h

/-- The invariant of the machine between host operations. -/
def Inv (s : State) : Prop :=
  storageLegal s ∧ statusLegal s ∧ resultsLegal s ∧ traceLegal s ∧ scanoutPinned s

/-! ### The formulas of the solver (41_pll_solver.md) and of the gain classifier -/

/-- `Gain` with the thresholds in kHz (42_gain_classifier.md R131, R133). -/
def gainOf (refFreq r f : Nat) : Nat :=
  if r = 0 then 1
  else if 300000 ≤ refFreq * f / r then 7
  else if 180000 ≤ refFreq * f / r then 4
  else 1

/-- `Achieved(r, f, p)` (41_pll_solver.md R114). -/
def achievedOf (refFreq r f p : Nat) : Nat := if r = 0 then 0 else refFreq * f / (r * p)

/-- `PostCode(v)` (41_pll_solver.md R118). -/
def postCode (v : Nat) : Nat :=
  if v = 2 then 1 else if v = 3 then 2 else if v = 4 then 3 else if v = 6 then 4
  else if v = 8 then 5 else if v = 12 then 6 else if v = 16 then 7 else 0

/-- (r, f, p) with p at index i is in `Cand` for the operands (41_pll_solver.md R111 to R113). -/
def IsCandidate (s : State) (c : Ctrl) (r f i p : Nat) : Prop :=
  (if testBit (s.reg .fSolve) 2 then r = s.regNat (.dRefovr c)
    else 1 ≤ r ∧ r ≤ s.regNat (.dMaxref c)) ∧
  (s.regNat (.dMinfb c) ≤ f ∧ f ≤ s.regNat (.dMaxfb c)) ∧
  ([1, 2, 3, 4, 6, 8, 12, 16] : List Nat)[i]? = some p ∧
  (testBit (s.reg .fSolve) 3 = true → p % 2 = 0 ∨ p = 1)

/-- The key of a candidate, `(err, k_ref, k_fb, i, r, f)` (41_pll_solver.md R116). -/
def searchKey (s : State) (c : Ctrl) (r f i p : Nat) : List Int :=
  [|(achievedOf (s.regNat (.dReffreq c)) r f p : Int) - s.regNat .mClock|,
   if testBit (s.reg .fSolve) 1 then r else 0,
   if testBit (s.reg .fSolve) 0 then -(f : Int) else 0,
   i, r, f]

/-- The lexicographic order of keys, at most (41_pll_solver.md R116). -/
def KeyLe : List Int → List Int → Prop
  | a :: as, b :: bs => a < b ∨ (a = b ∧ KeyLe as bs)
  | _, _ => True

/-- A state with a PLLSolution in the SOL_* registers. -/
def withSolution (s : State) (r f p code clk gain : Word) : State :=
  ((((((s.setReg .solRef r).setReg .solFb f).setReg .solFrac 0).setReg .solPost p).setReg
    .solPcode code).setReg .solClk clk).setReg .solGain gain

/-! ### The words of the timing packer (44_timing_packer.md), as integers -/

/-- A word's value. -/
def WordIs (w : Word) (n : Int) : Prop := (w.toNat : Int) = n

/-- A polarity bit's value (44_timing_packer.md R173, R175). -/
def polarity (s : State) (flag : Nat) : Int := if testBit (s.reg .mFlags) flag then 2 ^ 23 else 0

/-- The width field and the polarity of a horizontal sync word (44_timing_packer.md R173). -/
def hsyncRest (s : State) : Int :=
  max 1 (Int.tdiv ((s.regNat .mHse : Int) - s.regNat .mHss) 8) % 64 * 2 ^ 16 + polarity s 3

/-- The width field and the polarity of a vertical sync word (44_timing_packer.md R175). -/
def vsyncRest (s : State) : Int :=
  max 1 ((s.regNat .mVse : Int) - s.regNat .mVss) % 32 * 2 ^ 16 + polarity s 4

/-- The display field of a horizontal total/display word (44_timing_packer.md R172, R180). -/
def hdispField (s : State) : Int := ((s.regNat .mHdisp : Int) / 8 - 1) % 2 ^ 9 * 2 ^ 16

/-- The display field of a vertical total/display word (44_timing_packer.md R174, R182). -/
def vdispField (s : State) : Int := ((s.regNat .mVdisp : Int) - 1) % 2 ^ 16 * 2 ^ 16

/-- HTD (44_timing_packer.md R172). -/
def stdHtd (s : State) : Int := ((s.regNat .mHtotal : Int) / 8 - 1) % 2 ^ 10 + hdispField s

/-- HSW (44_timing_packer.md R173). -/
def stdHsw (s : State) : Int := ((s.regNat .mHss : Int) - 8) % 2 ^ 13 + hsyncRest s

/-- VTD (44_timing_packer.md R174). -/
def stdVtd (s : State) : Int := ((s.regNat .mVtotal : Int) - 1) % 2 ^ 16 + vdispField s

/-- VSW (44_timing_packer.md R175). -/
def stdVsw (s : State) : Int := ((s.regNat .mVss : Int) - 1) % 2 ^ 12 + vsyncRest s

/-- cHTD (44_timing_packer.md R180). -/
def centerHtd (s : State) : Int :=
  min (Int.tdiv ((s.regNat .mHbe : Int) - s.regNat .mHbs) 8) 110 % 2 ^ 10 + hdispField s

/-- cHSW (44_timing_packer.md R181). -/
def centerHsw (s : State) : Int :=
  Int.tdiv ((s.regNat .mHss : Int) - s.regNat .mHbs) 8 % 2 ^ 13 + hsyncRest s

/-- cVTD (44_timing_packer.md R182). -/
def centerVtd (s : State) : Int :=
  ((s.regNat .mVbe : Int) - s.regNat .mVbs) % 2 ^ 16 + vdispField s

/-- cVSW (44_timing_packer.md R183). -/
def centerVsw (s : State) : Int :=
  ((s.regNat .mVss : Int) - s.regNat .mVbs) % 2 ^ 12 + vsyncRest s

/-- `PackCtl(c)` (44_timing_packer.md R188). -/
def ctlWord (s : State) : Ctrl → Word
  | .primary => 0
  | .secondary => if s.reg (.pwr .secondary) = 1 then 0x71 else 0x01

/-- What DPMSSET writes into CTL's named bits (46_dpms.md R223, R224). -/
def ctlValue : Ctrl → Level → Word
  | .primary, .on => 0x00000001#32
  | .primary, _ => 0x00000073#32
  | .secondary, .on => 0x00000000#32
  | .secondary, _ => 0x00000070#32

/-- The bits of CTL that DPMSSET keeps (46_dpms.md R223, R224). -/
def ctlKeep : Ctrl → Word
  | .primary => 0xFFFFFF8C#32
  | .secondary => 0xFFFFFF8F#32

/-- The hardware-owned bits of CTL: AUX_CRT_ON and the reserved bits (20_memory.md R76, assumption
log 7). -/
def ctlOwned : Ctrl → Word
  | .primary => 0xFFFFFF8C#32
  | .secondary => 0xFFFFFF8E#32

/-! ### The words of the scaler (43_scaler.md), as integers -/

/-- A disabled horizontal axis: the size `w/8 - 1` alone (43_scaler.md R142, R145). -/
def disabledH (w : Nat) : Int := ((w : Int) / 8 - 1) % 2 ^ 16 * 2 ^ 16

/-- A disabled vertical axis: the size `h - 1` alone (43_scaler.md R142, R146). -/
def disabledV (h : Nat) : Int := ((h : Int) - 1) % 2 ^ 16 * 2 ^ 16

/-- `ceil_div((size + inc) * RATIO_MAX, panel)` (43_scaler.md R145, R146). -/
def ratioOf (size panel : Nat) (inc : Bool) : Nat :=
  ((size + if inc then 1 else 0) * 4096 + panel - 1) / panel

/-- An enabled axis: ratio, enable, blend and the panel's size (43_scaler.md R145, R146). -/
def enabledAxis (ratio : Nat) (panelField : Int) : Int :=
  (ratio % 2 ^ 13 : Nat) + 2 ^ 13 + 2 ^ 14 + panelField

/-- HSTR under Full and Aspect (43_scaler.md R144, R145). -/
def stretchedH (w pw : Nat) (inc : Bool) : Int :=
  if min w pw = pw then disabledH (min w pw)
  else enabledAxis (ratioOf (min w pw) pw inc) (disabledH pw)

/-- VSTR under Full and Aspect (43_scaler.md R144, R146). -/
def stretchedV (h ph : Nat) (inc : Bool) : Int :=
  if min h ph = ph then disabledV (min h ph)
  else enabledAxis (ratioOf (min h ph) ph inc) (disabledV ph)

/-- The requested policy, `x[S_POLICY][1:0]` (10_state.md R28). -/
def policyNum (s : State) : Nat := bitsAt (s.reg .sPolicy) 2 0

/-- SCALCOMP's auto-increment flags (43_scaler.md R140, R143). -/
def hincOf (s : State) : Bool := testBit (s.reg .scHcur) 15

/-- The vertical flag. -/
def vincOf (s : State) : Bool := testBit (s.reg .scVcur) 15

/-! ### The shape of a trace -/

/-- The words that a busy-wait read (45_atomic_update.md R202, R203): at least one and at most 10000, all
but the last with bit 31 set, the last with it clear unless the bound is exhausted. -/
def WaitShape (ws : List Word) : Prop :=
  1 ≤ ws.length ∧ ws.length ≤ 10000 ∧ (∀ w ∈ ws.dropLast, testBit w 31 = true) ∧
    ∀ w, ws.getLast? = some w → testBit w 31 = false ∨ ws.length = 10000

/-- The events of a read-modify-write that reads `old` (20_memory.md R65, R69). -/
def rmwEvent (sp : Space) (a : Nat) (v keep old : Word) : Event :=
  .rmw sp a v keep old ((old &&& keep) ||| v)

/-- The events of the reads of a busy-wait of controller c. -/
def waitEvents (c : Ctrl) (ws : List Word) : List Event := ws.map fun w => .rd .pr (prBlock c) w

/-- SOL_REF cut to REF_DIV (45_atomic_update.md R204). -/
def refDivField (s : State) : Word := BitVec.ofNat 32 (s.regNat .solRef % 1024)

/-- SOL_FB, SOL_FRAC and SOL_PCODE cut to the fields of PLL_FB_POST (45_atomic_update.md R204). -/
def fbPostFields (s : State) : Word :=
  BitVec.ofNat 32 (s.regNat .solFb % 2048 + s.regNat .solFrac % 16 * 2 ^ 11 +
    s.regNat .solPcode % 8 * 2 ^ 16)

/-- SOL_GAIN cut to GAIN (45_atomic_update.md R204). -/
def gainField (s : State) : Word := BitVec.ofNat 32 (s.regNat .solGain % 8 * 2 ^ 11)

/-- The five writes of a commit (45_atomic_update.md R204, R205) of the SOL_* values of a state, which
read the words o1 to o5. -/
def commitWrites (s : State) (c : Ctrl) (o1 o2 o3 o4 o5 : Word) : List Event :=
  [rmwEvent .pr (prBlock c) (refDivField s) 0xFFFFFC00#32 o1,
   rmwEvent .pr (prBlock c + 1) (fbPostFields s) 0xFFF88000#32 o2,
   rmwEvent .pr (prBlock c + 2) (gainField s) 0xFFFFC7FF#32 o3,
   rmwEvent .pr (prBlock c) 0x00008000#32 0xFFFF7FFF#32 o4,
   rmwEvent .pr (prBlock c) 0x00000000#32 0xFFFF7FFF#32 o5]

/-- The words that a busy-wait reads, the first of them the n-th coming read: what PLL_REF_DIV holds, but
for UPDATE_PENDING and the preserved bits, which each read draws (20_memory.md R76, 10_state.md R52). -/
def WaitAnswers (s : State) (n : Nat) (held : Word) (ws : List Word) : Prop :=
  ∀ k w, ws[k]? = some w → w = presented 0xFFFF7C00#32 held (drawAt s (n + k))

/-- A commit of the SOL_* values that t, the state at its end, still has (45_atomic_update.md R201): a wait,
five writes, a wait, with their events `es`. Its first read is the n-th that the machine makes after s;
PLL_REF_DIV then holds h1, and PLL_FB_POST holds h2 when it is written. Every word read is the one the
bank presents (20_memory.md R69, R76), and the three registers hold what was written last. -/
def CommitShape (s t : State) (c : Ctrl) (n : Nat) (h1 h2 : Word) (first second : List Word)
    (es : List Event) : Prop :=
  WaitShape first ∧ WaitShape second ∧
    ∃ o1 o2 o3 o4 o5,
      es = waitEvents c first ++ commitWrites t c o1 o2 o3 o4 o5 ++ waitEvents c second ∧
      WaitAnswers s n h1 first ∧
      o1 = presented 0xFFFF7C00#32 h1 (drawAt s (n + first.length)) ∧
      o2 = presented 0xFFF88000#32 h2 (drawAt s (n + first.length + 1)) ∧
      o3 = readAt s .pr (prBlock c + 2) 0xFFFFC7FF#32 (n + first.length + 2) ∧
      o4 = presented 0xFFFF7C00#32 ((o1 &&& 0xFFFFFC00#32) ||| refDivField t)
        (drawAt s (n + first.length + 3)) ∧
      o5 = presented 0xFFFF7C00#32 ((o4 &&& 0xFFFF7FFF#32) ||| 0x00008000#32)
        (drawAt s (n + first.length + 4)) ∧
      WaitAnswers s (n + first.length + 5) (o5 &&& 0xFFFF7FFF#32) second ∧
      t.held .pr (prBlock c) = some (o5 &&& 0xFFFF7FFF#32) ∧
      t.held .pr (prBlock c + 1) = some ((o2 &&& 0xFFF88000#32) ||| fbPostFields t) ∧
      t.held .pr (prBlock c + 2) = some ((o3 &&& 0xFFFFC7FF#32) ||| gainField t)

/-! ### The kinds of events -/

/-- A plain read. -/
def isRead : Event → Bool
  | .rd _ _ _ => true
  | _ => false

/-- A plain write. -/
def isWrite : Event → Bool
  | .wr _ _ _ => true
  | _ => false

/-- A read-modify-write. -/
def isRmw : Event → Bool
  | .rmw _ _ _ _ _ _ => true
  | _ => false

/-- A call of a collaborator other than a delay. -/
def isCall : Event → Bool
  | .pin _ _ => true
  | .unpin _ => true
  | .bw _ _ => true
  | .palette _ => true
  | _ => false

/-- A delay. -/
def isDelay : Event → Bool
  | .delay _ => true
  | _ => false

end Sys2Proof.Safety
end

