-- ==== Sys2Proof/Certificates/Slice0/Obligations.lean ====
section
/-! DEFINITION. The statements for the provers. Each says which rule of spec/ it formalises; formulas are
those of Sys2Proof/Safety.lean, not the functions the meanings call. -/

open Sys2Proof Sys2Proof.Machine Sys2Proof.Safety

/-! ### Encoding and stepping -/

/-- When the host's coming operation is `Issue` of a word that decodes to a command, and no command runs,
a step is `exec` of that command on the state with the operation taken from the host's list
(30_encoding.md R90, R91). -/
def Obligations.StepRunsDecodedCommand : Prop :=
  ∀ (s : State) (w : Word) (rest : List HostOp) (i : Instr),
    s.host = .issue w :: rest → testBit (s.reg .status) 0 = false → decode w = .instr i →
      step s = exec i { s with host := rest }

/-- The thirty command words, written out from the encoding of R93 and R97, decode to the commands they
stand for: every command with both controllers where it takes one, both TIMPACK variants, and the eight
DPMSSET words of 46_dpms.md R230. -/
def Obligations.SpecWordsDecode : Prop :=
  decode 0x00000001#32 = .instr (.pllsolve .primary) ∧
  decode 0x00000101#32 = .instr (.pllsolve .secondary) ∧
  decode 0x00000002#32 = .instr .gaincls ∧
  decode 0x00000003#32 = .instr .scalcomp ∧
  decode 0x00000004#32 = .instr (.timpack .primary .std) ∧
  decode 0x00000104#32 = .instr (.timpack .secondary .std) ∧
  decode 0x00000204#32 = .instr (.timpack .primary .center) ∧
  decode 0x00000304#32 = .instr (.timpack .secondary .center) ∧
  decode 0x00000005#32 = .instr (.pllcommit .primary) ∧
  decode 0x00000105#32 = .instr (.pllcommit .secondary) ∧
  decode 0x00000006#32 = .instr (.dpmsset .primary .on) ∧
  decode 0x00000206#32 = .instr (.dpmsset .primary .standby) ∧
  decode 0x00000406#32 = .instr (.dpmsset .primary .suspend) ∧
  decode 0x00000606#32 = .instr (.dpmsset .primary .off) ∧
  decode 0x00000106#32 = .instr (.dpmsset .secondary .on) ∧
  decode 0x00000306#32 = .instr (.dpmsset .secondary .standby) ∧
  decode 0x00000506#32 = .instr (.dpmsset .secondary .suspend) ∧
  decode 0x00000706#32 = .instr (.dpmsset .secondary .off) ∧
  decode 0x00000007#32 = .instr (.modeset .primary) ∧
  decode 0x00000107#32 = .instr (.modeset .secondary) ∧
  decode 0x00000008#32 = .instr (.setbase .primary) ∧
  decode 0x00000108#32 = .instr (.setbase .secondary) ∧
  decode 0x00000009#32 = .instr (.timprog .primary) ∧
  decode 0x00000109#32 = .instr (.timprog .secondary) ∧
  decode 0x0000000A#32 = .instr (.pllprog .primary) ∧
  decode 0x0000010A#32 = .instr (.pllprog .secondary) ∧
  decode 0x0000000B#32 = .instr (.bwnotify .primary) ∧
  decode 0x0000010B#32 = .instr (.bwnotify .secondary) ∧
  decode 0x0000000C#32 = .instr (.scalprog .primary) ∧
  decode 0x0000010C#32 = .instr (.scalprog .secondary)

/-- Decode and encode agree: every instruction's word decodes to it, and no other word does. -/
def Obligations.DecodeEncodeAgree : Prop :=
  (∀ i : Instr, decode (encode i) = .instr i) ∧
    ∀ (w : Word) (i : Instr), decode w = .instr i → w = encode i

/-- The opcode map (30_encoding.md R97): a word is the command of a row exactly when `w & mask = match`;
the controller and the argument are bits 8 and 10:9 (R94). -/
def Obligations.DecodeFollowsOpcodeMap : Prop :=
  ∀ w : Word,
    ((∃ c, decode w = .instr (.pllsolve c)) ↔ w &&& 0xFFFFFEFF#32 = 0x00000001#32) ∧
    (decode w = .instr .gaincls ↔ w &&& 0xFFFFFFFF#32 = 0x00000002#32) ∧
    (decode w = .instr .scalcomp ↔ w &&& 0xFFFFFFFF#32 = 0x00000003#32) ∧
    ((∃ c v, decode w = .instr (.timpack c v)) ↔ w &&& 0xFFFFFCFF#32 = 0x00000004#32) ∧
    ((∃ c, decode w = .instr (.pllcommit c)) ↔ w &&& 0xFFFFFEFF#32 = 0x00000005#32) ∧
    ((∃ c l, decode w = .instr (.dpmsset c l)) ↔ w &&& 0xFFFFF8FF#32 = 0x00000006#32) ∧
    ((∃ c, decode w = .instr (.modeset c)) ↔ w &&& 0xFFFFFEFF#32 = 0x00000007#32) ∧
    ((∃ c, decode w = .instr (.setbase c)) ↔ w &&& 0xFFFFFEFF#32 = 0x00000008#32) ∧
    ((∃ c, decode w = .instr (.timprog c)) ↔ w &&& 0xFFFFFEFF#32 = 0x00000009#32) ∧
    ((∃ c, decode w = .instr (.pllprog c)) ↔ w &&& 0xFFFFFEFF#32 = 0x0000000A#32) ∧
    ((∃ c, decode w = .instr (.bwnotify c)) ↔ w &&& 0xFFFFFEFF#32 = 0x0000000B#32) ∧
    ((∃ c, decode w = .instr (.scalprog c)) ↔ w &&& 0xFFFFFEFF#32 = 0x0000000C#32) ∧
    ∀ i, decode w = .instr i →
      (ctrlOf i = none ∨ ctrlOf i = some (if testBit w 8 then .secondary else .primary)) ∧
      (∀ c v, i = .timpack c v → v = if testBit w 9 then .center else .std) ∧
      ∀ c l, i = .dpmsset c l → bitsAt w 2 9 = levelArg l

/-- A word that R98 lists as illegal, issued while no command runs: STATUS ends as DONE and E_ILLEGAL, and
nothing else changes. -/
def Obligations.IllegalWordOnlySetsFlag : Prop :=
  ∀ (s : State) (w : Word) (rest : List HostOp),
    s.host = .issue w :: rest → testBit (s.reg .status) 0 = false →
    (bitsAt w 8 0 = 0 ∨ 0x0D ≤ bitsAt w 8 0 ∨ bitsAt w 21 11 ≠ 0 ∨
      ((bitsAt w 8 0 = 2 ∨ bitsAt w 8 0 = 3) ∧ testBit w 8 = true) ∨
      (bitsAt w 8 0 ≠ 4 ∧ bitsAt w 8 0 ≠ 6 ∧ bitsAt w 2 9 ≠ 0) ∨
      (bitsAt w 8 0 = 4 ∧ testBit w 10 = true)) →
    ∃ t, step s = .next t ∧ Ended 0x00000082#32 t ∧
      PureOn [.status, .phase] { s with host := rest } t

/-! ### The host -/

/-- `HostWrite(i, v)` while no command runs (10_state.md R21 to R23): an `rw` register takes v, every other
index keeps what it read as, and nothing else changes. -/
def Obligations.HostWriteReachesOperandsOnly : Prop :=
  ∀ (s : State) (i : Fin 128) (v : Word) (rest : List HostOp),
    s.host = .write i v :: rest → testBit (s.reg .status) 0 = false →
    ∃ t, step s = .next t ∧
      (∀ j < 128, t.readIndex j =
        if j = i.val ∧ (j ≤ 36 ∨ (40 ≤ j ∧ j ≤ 44)) then v else s.readIndex j) ∧
      t = { s with host := rest, regs := t.regs }

/-- `HostRead(i)` while no command runs (10_state.md R21 to R23): the host receives the register's value,
0 from a reserved index, and nothing else changes. -/
def Obligations.HostReadAnswersRegister : Prop :=
  ∀ (s : State) (i : Fin 128) (rest : List HostOp),
    s.host = .read i :: rest → testBit (s.reg .status) 0 = false →
    (∃ v, step s = .next { s with host := rest, hostSeen := s.hostSeen ++ [(i.val, v)] } ∧
      (∀ r, (Reg.index r).val = i.val → v = s.reg r) ∧ (74 ≤ i.val → v = 0))

/-- A host operation that comes while a command runs is refused (93_implementation_defined.md U9 "refuse",
92_eei_decisions.md D43); the host's reset is not (assumption log 11). -/
def Obligations.BusyCoreRefusesHost : Prop :=
  ∀ (s : State) (rest : List HostOp), testBit (s.reg .status) 0 = true →
    (∀ w, s.host = .issue w :: rest → step s = .refused .issueWhileBusy) ∧
    (∀ i, s.host = .read i :: rest → step s = .refused .hostAccessWhileBusy) ∧
    ∀ i v, s.host = .write i v :: rest → step s = .refused .hostAccessWhileBusy

/-- While no command runs the core never stops: every host operation, every command word, legal or not,
gives a next state, and with no host operation the core waits (30_encoding.md R92, 60_exceptions.md
R270, R278, 70_reset_and_hazards.md R303; the idle step is the model's, assumption log 4). -/
def Obligations.CoreNeverStopsUnlessBusy : Prop :=
  ∀ s : State, testBit (s.reg .status) 0 = false →
    (∃ t, step s = .next t) ∧ (s.host = [] → step s = .next s)

/-- The reset values (70_reset_and_hazards.md R301): every core register 0 but PWR[0] and PWR[1], which
are 1; a reserved index reads 0 in every state; the trace is empty (R303). -/
def Obligations.ResetValues : Prop :=
  (∀ i < 128, State.reset.readIndex i = if i = 37 ∨ i = 45 then 1 else 0) ∧
    (∀ (s : State) (i : Nat), 74 ≤ i → s.readIndex i = 0) ∧ State.reset.trace = []

/-- The host's reset (70_reset_and_hazards.md R300 to R303): the core registers take their reset values,
the trace and the counts of its palette events start again, and the display hardware, the PLL bank, the
pins and the host are untouched. What becomes of the palette counts and of what the registers held is
the model's choice (assumption log 9). -/
def Obligations.HostResetTouchesCoreOnly : Prop :=
  ∀ (s : State) (rest : List HostOp), s.host = .reset :: rest →
    ∃ t, step s = .next t ∧ (∀ r, t.reg r = State.reset.reg r) ∧ t.trace = [] ∧
      t.palettePri = 0 ∧ t.paletteSec = 0 ∧ HeldKept [] s t ∧ t.pins = s.pins ∧
      t.host = rest ∧ t.hostSeen = s.hostSeen ∧ Drew 0 0 s t

/-! ### The invariant -/

/-- The machine right after reset meets the invariant. -/
def Obligations.ResetMeetsInvariant : Prop := Inv State.reset

/-- Every step keeps the canonical form of the register spaces and of the pins, and lists only registers
that exist. -/
def Obligations.StepKeepsStorageLegal : Prop :=
  ∀ s t : State, storageLegal s → step s = .next t → storageLegal t

/-- Every step keeps STATUS at a value it can have between commands, and PHASE at 0 (10_state.md R37, R38,
47_modeset.md R257, 60_exceptions.md R279). -/
def Obligations.StepKeepsStatusLegal : Prop :=
  ∀ s t : State, statusLegal s → step s = .next t → statusLegal t

/-- Every step keeps the per-controller state and the result registers at values the rules allow
(10_state.md R33 to R39). -/
def Obligations.StepKeepsResultsLegal : Prop :=
  ∀ s t : State, resultsLegal s → step s = .next t → resultsLegal t

/-- Every step keeps the trace legal: no address outside the 23 and the 8, no read-modify-write that
changes a kept bit, no `PllWrite`, and the palette counts are those of its events. -/
def Obligations.StepKeepsTraceLegal : Prop :=
  ∀ s t : State, traceLegal s → step s = .next t → traceLegal t

/-- Every step keeps a pin for every buffer that a controller scans out (47_modeset.md R241). That the
manager counts the pins of a handle is the model's choice (assumption log 8). -/
def Obligations.StepKeepsScanoutPinned : Prop :=
  ∀ s t : State, scanoutPinned s → step s = .next t → scanoutPinned t

/-- Every step keeps the whole invariant. -/
def Obligations.StepKeepsInvariant : Prop :=
  ∀ s t : State, Inv s → step s = .next t → Inv t

/-! ### The register spaces -/

/-- A read presents the value last written but for the hardware-owned bits, which are those drawn at this
read; a register never written presents the draw, which then stays (20_memory.md R76). One event, one
draw; no other register changes. -/
def Obligations.BusReadAnswers : Prop :=
  ∀ (sp : Space) (a : Nat) (owned : Word) (s : State),
    let v := (busRead sp a owned s).1
    let t := (busRead sp a owned s).2
    (∀ w, s.held sp a = some w →
      v &&& ~~~owned = w &&& ~~~owned ∧ v &&& owned = s.nextRead &&& owned ∧
        t.held sp a = some w) ∧
    (s.held sp a = none → v = s.nextRead ∧ t.held sp a = some v) ∧
    RegsKept [] s t ∧ HeldKept [(sp, a)] s t ∧ t.trace = s.trace ++ [.rd sp a v] ∧
    NoCollab s t ∧ HostKept s t ∧ Drew 1 0 s t

/-- A read-modify-write reads what a read presents (20_memory.md R65, R69, R76): the word written before
outside the hardware-owned bits, the draw of this read inside them, the draw whole from a register that
holds nothing. It writes `(old & keep) | (v & ~keep)` whole, in one event and with one draw, and touches
nothing else. -/
def Obligations.BusRmwAnswers : Prop :=
  ∀ (sp : Space) (a : Nat) (owned v keep : Word) (s : State),
    let t := busRmw sp a owned v keep s
    ∃ old : Word,
      (∀ w, s.held sp a = some w →
        old &&& ~~~owned = w &&& ~~~owned ∧ old &&& owned = drawAt s 0 &&& owned) ∧
      (s.held sp a = none → old = drawAt s 0) ∧
      t.held sp a = some ((old &&& keep) ||| (v &&& ~~~keep)) ∧
      t.trace = s.trace ++ [.rmw sp a v keep old ((old &&& keep) ||| (v &&& ~~~keep))] ∧
      RegsKept [] s t ∧ HeldKept [(sp, a)] s t ∧ NoCollab s t ∧ HostKept s t ∧ Drew 1 0 s t

/-- Which bits the hardware owns (20_memory.md R76): UPDATE_PENDING, AUX_CRT_ON, the two auto-increment
flags, and the bits the layouts call preserved; the reserved bits of CTL are among them (assumption
log 7). -/
def Obligations.HardwareOwnedBits : Prop :=
  drOwned msc1 .primary .ctl = 0xFFFFFF8C#32 ∧ drOwned msc1 .secondary .ctl = 0xFFFFFF8E#32 ∧
  drOwned msc1 .primary .horzStretch = 0x00008000#32 ∧
  drOwned msc1 .primary .vertStretch = 0x00008000#32 ∧
  drOwned msc1 .primary .centerCntl = 0xFFFFFFFC#32 ∧
  prOwned msc1 .pllRefDiv = 0xFFFF7C00#32 ∧ prOwned msc1 .pllFbPost = 0xFFF88000#32 ∧
  prOwned msc1 .pllCntl = 0xFFFFC7FF#32 ∧ prOwned msc1 .clkSel = 0xFFFFFFFE#32 ∧
  ∀ c, ∀ r ∈ [DReg.hTotalDisp, .hSyncStrtWid, .vTotalDisp, .vSyncStrtWid, .fbOffset, .fbPitchw,
    .ptHTotalDisp, .ptHSyncStrtWid, .ptVTotalDisp, .ptVSyncStrtWid, .activeH, .activeV],
    drOwned msc1 c r = 0

/-! ### GAINCLS -/

/-- GAINCLS (42_gain_classifier.md R130, R131). -/
def Obligations.GainclsWritesGain : Prop :=
  ∀ s : State, ∃ t, exec .gaincls s = .next t ∧
    t.reg .gOut =
      (if s.regNat .gRef = 0 then 1
       else if 300 * 1000 ≤ s.regNat .gReffreq * s.regNat .gFb / s.regNat .gRef then 7
       else if 180 * 1000 ≤ s.regNat .gReffreq * s.regNat .gFb / s.regNat .gRef then 4
       else 1) ∧
    Ended 0x00000002#32 t ∧ PureOn [.gOut, .status, .phase] s t

/-- The classifier does not fall as the VCO frequency rises, and a reference divider of 0 gives the
minimum of all results (42_gain_classifier.md R134 (a), (b)). -/
def Obligations.GainMonotoneInVco : Prop :=
  ∀ s s' : State, ∃ t t', exec .gaincls s = .next t ∧ exec .gaincls s' = .next t' ∧
    (s.regNat .gRef = 0 → t.reg .gOut = 1 ∧ t.regNat .gOut ≤ t'.regNat .gOut) ∧
    (s.regNat .gRef ≠ 0 → s'.regNat .gRef ≠ 0 →
      s.regNat .gReffreq * s.regNat .gFb / s.regNat .gRef ≤
        s'.regNat .gReffreq * s'.regNat .gFb / s'.regNat .gRef →
      t.regNat .gOut ≤ t'.regNat .gOut)

/-! ### PLLSOLVE -/

/-- PLLSOLVE with a candidate (41_pll_solver.md R110 to R117): the SOL_* registers take the candidate of
the least key, so of the least error, with its code, achieved clock and gain. -/
def Obligations.PllsolvePicksLeastCandidate : Prop :=
  ∀ (c : Ctrl) (s : State), (∃ r f i p, IsCandidate s c r f i p) →
    ∃ t r f i p, exec (.pllsolve c) s = .next t ∧ IsCandidate s c r f i p ∧
      (∀ r' f' i' p', IsCandidate s c r' f' i' p' →
        KeyLe (searchKey s c r f i p) (searchKey s c r' f' i' p')) ∧
      t.regNat .solRef = r ∧ t.regNat .solFb = f ∧ t.reg .solFrac = 0 ∧
      t.regNat .solPost = p ∧ t.regNat .solPcode = i ∧
      t.reg .solClk = BitVec.ofNat 32 (achievedOf (s.regNat (.dReffreq c)) r f p) ∧
      t.regNat .solGain = gainOf (s.regNat (.dReffreq c)) r f ∧
      Ended 0x00000002#32 t ∧ PureOn (solRegs ++ [.status, .phase]) s t

/-- PLLSOLVE with no candidate (41_pll_solver.md R119): D_MAXREF = 0 without the override, or an empty
feedback range. -/
def Obligations.PllsolveNoCandidate : Prop :=
  ∀ (c : Ctrl) (s : State),
    ((testBit (s.reg .fSolve) 2 = false ∧ s.regNat (.dMaxref c) = 0) ∨
      s.regNat (.dMaxfb c) < s.regNat (.dMinfb c)) →
    ∃ t, exec (.pllsolve c) s = .next t ∧
      t.reg .solRef = 0 ∧ t.reg .solFb = 0 ∧ t.reg .solFrac = 0 ∧ t.reg .solPost = 1 ∧
      t.reg .solPcode = 0 ∧ t.reg .solClk = 0 ∧ t.reg .solGain = 1 ∧
      Ended 0x00000002#32 t ∧ PureOn (solRegs ++ [.status, .phase]) s t

/-- PLLSOLVE's result depends on nothing but M_CLOCK, the controller's descriptor and F_SOLVE[3:0]
(41_pll_solver.md R110, R120 (c)); HONOR_PRESUPPLIED is ignored. -/
def Obligations.PllsolveDependsOnOperandsOnly : Prop :=
  ∀ (c : Ctrl) (s s' : State),
    (∀ r ∈ [Reg.mClock, .dReffreq c, .dMaxref c, .dMinfb c, .dMaxfb c, .dRefovr c],
      s.reg r = s'.reg r) →
    bitsAt (s.reg .fSolve) 4 0 = bitsAt (s'.reg .fSolve) 4 0 →
    ∃ t t', exec (.pllsolve c) s = .next t ∧ exec (.pllsolve c) s' = .next t' ∧
      ∀ r ∈ solRegs, t.reg r = t'.reg r

/-! ### SCALCOMP -/

/-- SCALCOMP with no panel or under Off (43_scaler.md R141, R142, R152). -/
def Obligations.ScalcompFallback : Prop :=
  ∀ s : State, (s.regNat .pW = 0 ∨ s.regNat .pH = 0 ∨ policyNum s = 0) →
    ∃ t, exec .scalcomp s = .next t ∧
      WordIs (t.reg .scHstr) (disabledH (s.regNat .mHdisp)) ∧
      WordIs (t.reg .scVstr) (disabledV (s.regNat .mVdisp)) ∧
      t.reg .scCenter = 0 ∧ t.reg .scOvr = 0 ∧ (∀ r ∈ ovrRegs, t.reg r = 0) ∧
      Ended 0x00000002#32 t ∧ PureOn (scRegs ++ [.status, .phase]) s t

/-- SCALCOMP with a panel under Full and Aspect (43_scaler.md R144 to R147, R152). -/
def Obligations.ScalcompStretch : Prop :=
  ∀ s : State, s.regNat .pW ≠ 0 → s.regNat .pH ≠ 0 → (policyNum s = 1 ∨ policyNum s = 2) →
    ∃ t, exec .scalcomp s = .next t ∧
      WordIs (t.reg .scHstr) (stretchedH (s.regNat .mHdisp) (s.regNat .pW) (hincOf s)) ∧
      WordIs (t.reg .scVstr) (stretchedV (s.regNat .mVdisp) (s.regNat .pH) (vincOf s)) ∧
      t.reg .scCenter = 0 ∧ t.reg .scOvr = 0 ∧ (∀ r ∈ ovrRegs, t.reg r = 0) ∧
      Ended 0x00000002#32 t ∧ PureOn (scRegs ++ [.status, .phase]) s t

/-- SCALCOMP with a panel under Center (43_scaler.md R144, R148, R152, 44_timing_packer.md R180 to
R183). -/
def Obligations.ScalcompCenter : Prop :=
  ∀ s : State, s.regNat .pW ≠ 0 → s.regNat .pH ≠ 0 → policyNum s = 3 →
    ∃ t, exec .scalcomp s = .next t ∧
      WordIs (t.reg .scHstr) (disabledH (min (s.regNat .mHdisp) (s.regNat .pW))) ∧
      WordIs (t.reg .scVstr) (disabledV (min (s.regNat .mVdisp) (s.regNat .pH))) ∧
      t.reg .scCenter = 3 ∧ t.reg .scOvr = 1 ∧
      WordIs (t.reg .scPtHtd) (centerHtd s) ∧ WordIs (t.reg .scPtHsw) (centerHsw s) ∧
      WordIs (t.reg .scPtVtd) (centerVtd s) ∧ WordIs (t.reg .scPtVsw) (centerVsw s) ∧
      t.reg .scActH = s.reg .pW ∧ t.reg .scActV = s.reg .pH ∧
      Ended 0x00000002#32 t ∧ PureOn (scRegs ++ [.status, .phase]) s t

/-- After every SCALCOMP (43_scaler.md R150, R151): an enabled axis has its size field from the panel and
a ratio that is the least multiple of 1/4096 not below (size + inc) / panel; an axis whose mode size
reaches the panel size is disabled; enable and blend are equal; no panel passes both axes through. -/
def Obligations.StretchWordInvariants : Prop :=
  ∀ s : State, ∃ t, exec .scalcomp s = .next t ∧
    testBit (t.reg .scHstr) 13 = testBit (t.reg .scHstr) 14 ∧
    testBit (t.reg .scVstr) 13 = testBit (t.reg .scVstr) 14 ∧
    (testBit (t.reg .scHstr) 13 = true →
      s.regNat .mHdisp < s.regNat .pW ∧
      (bitsAt (t.reg .scHstr) 16 16 : Int) = ((s.regNat .pW : Int) / 8 - 1) % 2 ^ 16 ∧
      (s.regNat .mHdisp + if hincOf s then 1 else 0) * 4096 ≤
        bitsAt (t.reg .scHstr) 13 0 * s.regNat .pW ∧
      (∀ n, (s.regNat .mHdisp + if hincOf s then 1 else 0) * 4096 ≤ n * s.regNat .pW →
        bitsAt (t.reg .scHstr) 13 0 ≤ n) ∧
      bitsAt (t.reg .scHstr) 13 0 ≤ 4096) ∧
    (testBit (t.reg .scVstr) 13 = true →
      s.regNat .mVdisp < s.regNat .pH ∧
      (bitsAt (t.reg .scVstr) 16 16 : Int) = ((s.regNat .pH : Int) - 1) % 2 ^ 16 ∧
      (s.regNat .mVdisp + if vincOf s then 1 else 0) * 4096 ≤
        bitsAt (t.reg .scVstr) 13 0 * s.regNat .pH ∧
      (∀ n, (s.regNat .mVdisp + if vincOf s then 1 else 0) * 4096 ≤ n * s.regNat .pH →
        bitsAt (t.reg .scVstr) 13 0 ≤ n) ∧
      bitsAt (t.reg .scVstr) 13 0 ≤ 4096) ∧
    (s.regNat .pW = 0 ∨ s.regNat .pH = 0 →
      testBit (t.reg .scHstr) 13 = false ∧ testBit (t.reg .scVstr) 13 = false)

/-! ### TIMPACK -/

/-- TIMPACK c, STD (44_timing_packer.md R170 to R175, R188), for every operand value. -/
def Obligations.TimpackStandardWords : Prop :=
  ∀ (c : Ctrl) (s : State), ∃ t, exec (.timpack c .std) s = .next t ∧
    WordIs (t.reg .tpHtd) (stdHtd s) ∧ WordIs (t.reg .tpHsw) (stdHsw s) ∧
    WordIs (t.reg .tpVtd) (stdVtd s) ∧ WordIs (t.reg .tpVsw) (stdVsw s) ∧
    t.reg .tpCtl = ctlWord s c ∧
    Ended 0x00000002#32 t ∧ PureOn (tpRegs ++ [.status, .phase]) s t

/-- TIMPACK c, CENTER (44_timing_packer.md R170, R180 to R183, R188), for every operand value. -/
def Obligations.TimpackCenterWords : Prop :=
  ∀ (c : Ctrl) (s : State), ∃ t, exec (.timpack c .center) s = .next t ∧
    WordIs (t.reg .tpHtd) (centerHtd s) ∧ WordIs (t.reg .tpHsw) (centerHsw s) ∧
    WordIs (t.reg .tpVtd) (centerVtd s) ∧ WordIs (t.reg .tpVsw) (centerVsw s) ∧
    t.reg .tpCtl = ctlWord s c ∧
    Ended 0x00000002#32 t ∧ PureOn (tpRegs ++ [.status, .phase]) s t

/-- Round trip (44_timing_packer.md R176): when the eight values are inside their fields, unpacking the
standard words gives them back. -/
def Obligations.TimpackRoundTrip : Prop :=
  ∀ (c : Ctrl) (s : State),
    8 ≤ s.regNat .mHtotal → s.regNat .mHtotal ≤ 8199 →
    8 ≤ s.regNat .mHdisp → s.regNat .mHdisp ≤ 4103 →
    8 ≤ s.regNat .mHss → s.regNat .mHss ≤ 8199 → s.regNat .mHss ≤ s.regNat .mHse →
    (s.regNat .mHse - s.regNat .mHss) / 8 ≤ 63 →
    1 ≤ s.regNat .mVtotal → s.regNat .mVtotal ≤ 65536 →
    1 ≤ s.regNat .mVdisp → s.regNat .mVdisp ≤ 65536 →
    1 ≤ s.regNat .mVss → s.regNat .mVss ≤ 4096 → s.regNat .mVss ≤ s.regNat .mVse →
    s.regNat .mVse - s.regNat .mVss ≤ 31 →
    ∃ t, exec (.timpack c .std) s = .next t ∧
      bitsAt (t.reg .tpHtd) 10 0 = s.regNat .mHtotal / 8 - 1 ∧
      bitsAt (t.reg .tpHtd) 9 16 = s.regNat .mHdisp / 8 - 1 ∧
      bitsAt (t.reg .tpHsw) 13 0 = s.regNat .mHss - 8 ∧
      bitsAt (t.reg .tpHsw) 6 16 = max 1 ((s.regNat .mHse - s.regNat .mHss) / 8) ∧
      testBit (t.reg .tpHsw) 23 = testBit (s.reg .mFlags) 3 ∧
      bitsAt (t.reg .tpVtd) 16 0 = s.regNat .mVtotal - 1 ∧
      bitsAt (t.reg .tpVtd) 16 16 = s.regNat .mVdisp - 1 ∧
      bitsAt (t.reg .tpVsw) 12 0 = s.regNat .mVss - 1 ∧
      bitsAt (t.reg .tpVsw) 5 16 = max 1 (s.regNat .mVse - s.regNat .mVss) ∧
      testBit (t.reg .tpVsw) 23 = testBit (s.reg .mFlags) 4

/-! ### PLLCOMMIT -/

/-- PLLCOMMIT c (45_atomic_update.md R200 to R206, R208): for every answer of the hardware the trace is a
wait, the three divider writes, the set and the clear of ATOMIC_UPDATE_W, and a wait; WAITCNT is the
count of the second wait; the divider writes follow a read that showed UPDATE_PENDING clear or 10000
reads that showed it set. Every word read is what the bank presents at that read (20_memory.md R76), and
the bank holds what was written. Nothing else is touched. -/
def Obligations.PllcommitRunsProtocol : Prop :=
  ∀ (c : Ctrl) (s : State), ∃ t first second es, exec (.pllcommit c) s = .next t ∧
    CommitShape s t c 0 (heldAt s .pr (prBlock c) 0)
      (heldAt s .pr (prBlock c + 1) (first.length + 1)) first second es ∧
    t.trace = s.trace ++ es ∧
    t.regNat .waitcnt = second.length ∧ Ended 0x00000002#32 t ∧
    RegsKept [.waitcnt, .status, .phase] s t ∧
    HeldKept [(.pr, prBlock c), (.pr, prBlock c + 1), (.pr, prBlock c + 2)] s t ∧
    NoCollab s t ∧ HostKept s t ∧ Drew (first.length + 5 + second.length) 0 s t

/-- What PLLCOMMIT leaves in the bank (45_atomic_update.md R204, R205): the divider fields and the gain
are the SOL_* values cut to their fields, and ATOMIC_UPDATE_W is 0. -/
def Obligations.PllcommitLeavesSolutionInBank : Prop :=
  ∀ (c : Ctrl) (s : State), ∃ t a b g, exec (.pllcommit c) s = .next t ∧
    t.held .pr (prBlock c) = some a ∧ t.held .pr (prBlock c + 1) = some b ∧
    t.held .pr (prBlock c + 2) = some g ∧
    bitsAt a 10 0 = s.regNat .solRef % 1024 ∧ testBit a 15 = false ∧
    bitsAt b 11 0 = s.regNat .solFb % 2048 ∧ bitsAt b 4 11 = s.regNat .solFrac % 16 ∧
    bitsAt b 3 16 = s.regNat .solPcode % 8 ∧ bitsAt g 3 11 = s.regNat .solGain % 8

/-! ### DPMSSET -/

/-- DPMSSET c, level (46_dpms.md R220 to R226): one read-modify-write of CTL, made on every invocation; a
palette reload when and only when the level is On; PWR[c] becomes the target. The word read has the bits
the core owns as last written, AUX_CRT_ON on the secondary as drawn at this read, and is the draw whole
from a register that holds nothing (20_memory.md R76). -/
def Obligations.DpmssetWritesCtl : Prop :=
  ∀ (c : Ctrl) (level : Level) (s : State),
    ∃ t old, exec (.dpmsset c level) s = .next t ∧
      Answers s .dr (drBlock c) (drOwned msc1 c .ctl) old ∧
      (c = .secondary → testBit old 8 = testBit (drawAt s 0) 8) ∧
      (s.held .dr (drBlock c) = none → old = drawAt s 0) ∧
      t.held .dr (drBlock c) = some ((old &&& ctlKeep c) ||| ctlValue c level) ∧
      t.trace = s.trace ++ [rmwEvent .dr (drBlock c) (ctlValue c level) (ctlKeep c) old] ++
        (if level = .on then [.palette c] else []) ∧
      t.reg (.pwr c) = (if level = .on then 0 else 1) ∧
      (∀ d, t.paletteCount d = s.paletteCount d + if level = .on ∧ d = c then 1 else 0) ∧
      t.pins = s.pins ∧ Ended 0x00000002#32 t ∧ RegsKept [.pwr c, .status, .phase] s t ∧
      HeldKept [(.dr, drBlock c)] s t ∧ HostKept s t ∧ Drew 1 0 s t

/-- The whole word that DPMSSET reads from CTL: what CTL holds outside the hardware-owned bits, the draw of
this read inside them (20_memory.md R65, R76). That the reserved bits of CTL are among the hardware-owned
ones is deduced (assumption log 7). -/
def Obligations.DpmssetReadsCtl : Prop :=
  ∀ (c : Ctrl) (level : Level) (s : State), ∃ t, exec (.dpmsset c level) s = .next t ∧
    t.trace = s.trace ++ [rmwEvent .dr (drBlock c) (ctlValue c level) (ctlKeep c)
        (readAt s .dr (drBlock c) (ctlOwned c) 0)] ++
      (if level = .on then [.palette c] else [])

/-- Off, then On (46_dpms.md R227 (a), (c)): the disable bits are set between and cleared at the end,
REQ_BLANK too on the primary; exactly one palette reload, made by the second command; the primary stays
enabled throughout. -/
def Obligations.DpmsOffThenOnRestores : Prop :=
  ∀ (c : Ctrl) (s : State), ∃ t u w w',
    exec (.dpmsset c .off) s = .next t ∧ exec (.dpmsset c .on) t = .next u ∧
    t.held .dr (drBlock c) = some w ∧ u.held .dr (drBlock c) = some w' ∧
    w &&& 0x00000070#32 = 0x00000070#32 ∧ w' &&& 0x00000070#32 = 0 ∧
    (c = .primary → testBit w 1 = true ∧ testBit w' 1 = false ∧
      testBit w 0 = true ∧ testBit w' 0 = true) ∧
    t.reg (.pwr c) = 1 ∧ u.reg (.pwr c) = 0 ∧
    t.trace.count (.palette c) = s.trace.count (.palette c) ∧
    u.trace.count (.palette c) = s.trace.count (.palette c) + 1

/-! ### SETBASE -/

/-- SETBASE c with an unsupported format (47_modeset.md R238): E_FORMAT, no call, no bus operation,
CURFB[c] unchanged. -/
def Obligations.SetbaseUnsupportedFormat : Prop :=
  ∀ (c : Ctrl) (s : State), s.regNat .fbFormat ∉ [8, 15, 16, 24, 32] →
    ∃ t, exec (.setbase c) s = .next t ∧ Ended 0x00000012#32 t ∧ PureOn [.status, .phase] s t

/-- A failed pin (47_modeset.md R239, 60_exceptions.md R275): SETBASE and MODESET end with E_ALLOC; the
one event is the pin; every register but STATUS and PHASE, every display and PLL register, the pins and
the palette counts are unchanged. -/
def Obligations.PinFailureAbortsUntouched : Prop :=
  ∀ (c : Ctrl) (s : State), s.regNat .fbFormat ∈ [8, 15, 16, 24, 32] → s.nextPin = .fail →
    ∀ i ∈ [Instr.setbase c, .modeset c],
      ∃ t, exec i s = .next t ∧ Ended 0x00000042#32 t ∧ RegsKept [.status, .phase] s t ∧
        HeldKept [] s t ∧ t.trace = s.trace ++ [.pin (s.reg .fbHandle) .fail] ∧
        NoCollab s t ∧ HostKept s t ∧ Drew 0 1 s t

/-- SETBASE c that pins (47_modeset.md R239 to R242): the pin, the two writes, the unpin of a different
previous buffer, and CURFB[c]. A tiled offset is the open `TileOffset`, here the free value of
assumption log 3; the pin counts are those of assumption log 8. -/
def Obligations.SetbaseProgramsBase : Prop :=
  ∀ (c : Ctrl) (s : State) (bytes : Nat) (base tiling : Word),
    (s.regNat .fbFormat, bytes) ∈ [(8, 1), (15, 2), (16, 2), (24, 3), (32, 4)] →
    s.nextPin = .ok base tiling →
    let h := s.reg .fbHandle
    let old := s.reg (.curfb c)
    let off := if tiling = 0
      then (s.regNat .fbY * s.regNat .fbPitch + s.regNat .fbX) * bytes
      else Config.freeTileOffset tiling (s.reg .fbX) (s.reg .fbY) (s.reg .fbPitch) bytes
    let addr := BitVec.ofNat 32 (base.toNat + off)
    ∃ t, exec (.setbase c) s = .next t ∧
      t.trace = s.trace ++ [.pin h (.ok base tiling), .wr .dr (drBlock c + 5) addr,
        .wr .dr (drBlock c + 6) (s.reg .fbPitch)] ++
        (if old ≠ 0 ∧ old ≠ h then [.unpin old] else []) ∧
      t.held .dr (drBlock c + 5) = some addr ∧
      t.held .dr (drBlock c + 6) = some (s.reg .fbPitch) ∧
      t.reg (.curfb c) = h ∧
      (∀ g, t.pinCount g = (s.pinCount g + if g = h then 1 else 0) -
        if old ≠ 0 ∧ old ≠ h ∧ g = old then 1 else 0) ∧
      t.palettePri = s.palettePri ∧ t.paletteSec = s.paletteSec ∧
      Ended 0x00000002#32 t ∧ RegsKept [.curfb c, .status, .phase] s t ∧
      HeldKept [(.dr, drBlock c + 5), (.dr, drBlock c + 6)] s t ∧ HostKept s t ∧ Drew 0 1 s t

/-! ### TIMPROG -/

/-- TIMPROG 0 (44_timing_packer.md R185, R186): the standard words in TP_* and in the four timing
registers, in order; the primary CTL is not touched. -/
def Obligations.TimprogPrimaryWritesTiming : Prop :=
  ∀ s : State, ∃ t, exec (.timprog .primary) s = .next t ∧
    WordIs (t.reg .tpHtd) (stdHtd s) ∧ WordIs (t.reg .tpHsw) (stdHsw s) ∧
    WordIs (t.reg .tpVtd) (stdVtd s) ∧ WordIs (t.reg .tpVsw) (stdVsw s) ∧ t.reg .tpCtl = 0 ∧
    t.trace = s.trace ++ [.wr .dr 0x001 (t.reg .tpHtd), .wr .dr 0x002 (t.reg .tpHsw),
      .wr .dr 0x003 (t.reg .tpVtd), .wr .dr 0x004 (t.reg .tpVsw)] ∧
    t.held .dr 0x001 = some (t.reg .tpHtd) ∧ t.held .dr 0x002 = some (t.reg .tpHsw) ∧
    t.held .dr 0x003 = some (t.reg .tpVtd) ∧ t.held .dr 0x004 = some (t.reg .tpVsw) ∧
    Ended 0x00000002#32 t ∧ RegsKept (tpRegs ++ [.status, .phase]) s t ∧
    HeldKept [(.dr, 0x001), (.dr, 0x002), (.dr, 0x003), (.dr, 0x004)] s t ∧
    NoCollab s t ∧ HostKept s t ∧ Drew 0 0 s t

/-- TIMPROG 1 (44_timing_packer.md R185 to R188): the control word first, keeping AUX_CRT_ON alone as
read and folding in the disable bits by PWR[1]; then the four timing registers. The word read is what
CTL presents at that read (20_memory.md R76); that its reserved bits are hardware-owned is deduced
(assumption log 7). -/
def Obligations.TimprogSecondaryWritesTiming : Prop :=
  ∀ s : State, ∃ t old, exec (.timprog .secondary) s = .next t ∧
    old = readAt s .dr 0x040 (ctlOwned .secondary) 0 ∧
    WordIs (t.reg .tpHtd) (stdHtd s) ∧ WordIs (t.reg .tpHsw) (stdHsw s) ∧
    WordIs (t.reg .tpVtd) (stdVtd s) ∧ WordIs (t.reg .tpVsw) (stdVsw s) ∧
    t.reg .tpCtl = (if s.reg (.pwr .secondary) = 1 then 0x00000071#32 else 0x00000001#32) ∧
    t.trace = s.trace ++ [rmwEvent .dr 0x040 (t.reg .tpCtl) 0x00000100#32 old,
      .wr .dr 0x041 (t.reg .tpHtd), .wr .dr 0x042 (t.reg .tpHsw),
      .wr .dr 0x043 (t.reg .tpVtd), .wr .dr 0x044 (t.reg .tpVsw)] ∧
    t.held .dr 0x040 = some ((old &&& 0x00000100#32) ||| t.reg .tpCtl) ∧
    t.held .dr 0x041 = some (t.reg .tpHtd) ∧ t.held .dr 0x042 = some (t.reg .tpHsw) ∧
    t.held .dr 0x043 = some (t.reg .tpVtd) ∧ t.held .dr 0x044 = some (t.reg .tpVsw) ∧
    Ended 0x00000002#32 t ∧ RegsKept (tpRegs ++ [.status, .phase]) s t ∧
    HeldKept [(.dr, 0x040), (.dr, 0x041), (.dr, 0x042), (.dr, 0x043), (.dr, 0x044)] s t ∧
    NoCollab s t ∧ HostKept s t ∧ Drew 1 0 s t

/-! ### PLLPROG -/

/-- PLLPROG writes a solution (47_modeset.md R246): with HONOR_PRESUPPLIED clear the one PLLSOLVE
computes; with it set the pre-supplied dividers verbatim, with the code of the table or of index 0. -/
def Obligations.PllprogWritesSolution : Prop :=
  ∀ (c : Ctrl) (s : State), ∃ t p, exec (.pllprog c) s = .next t ∧ exec (.pllsolve c) s = .next p ∧
    (testBit (s.reg .fSolve) 4 = false → ∀ r ∈ solRegs, t.reg r = p.reg r) ∧
    (testBit (s.reg .fSolve) 4 = true →
      t.reg .solRef = s.reg .xRef ∧ t.reg .solFb = s.reg .xFb ∧ t.reg .solFrac = 0 ∧
      t.reg .solPost = s.reg .xPost ∧ t.regNat .solPcode = postCode (s.regNat .xPost) ∧
      t.reg .solClk = (if s.reg .xRef = 0 ∨ s.reg .xPost = 0 then 0
        else BitVec.ofNat 32 (s.regNat (.dReffreq c) * s.regNat .xFb /
          (s.regNat .xRef * s.regNat .xPost))) ∧
      t.regNat .solGain = gainOf (s.regNat (.dReffreq c)) (s.regNat .xRef) (s.regNat .xFb))

/-- PLLPROG on a power-sensitive chip (47_modeset.md R247 to R250): two read-backs; when the three fields
read are the solution's, one write of CLK_SEL and STATUS.FAST, and CLK_SEL holds the word read with
SRC_SEL set; else the commit of the solution, which leaves its fields in the bank, and the settle delay.
Every word read is what the bank presents at that read (20_memory.md R76). -/
def Obligations.PllprogPowerSensitivePaths : Prop :=
  ∀ (c : Ctrl) (s : State), testBit (s.reg .caps) 0 = true →
    ∃ t a b es, exec (.pllprog c) s = .next t ∧
      a = readAt s .pr (prBlock c) 0xFFFF7C00#32 0 ∧
      b = readAt s .pr (prBlock c + 1) 0xFFF88000#32 1 ∧
      t.trace = s.trace ++ [.rd .pr (prBlock c) a, .rd .pr (prBlock c + 1) b] ++ es ∧
      (if bitsAt a 10 0 = t.regNat .solRef % 1024 ∧ bitsAt b 11 0 = t.regNat .solFb % 2048 ∧
          bitsAt b 3 16 = t.regNat .solPcode % 8 then
        (∃ old, old = readAt s .pr (prBlock c + 3) 0xFFFFFFFE#32 2 ∧
          es = [rmwEvent .pr (prBlock c + 3) 0x00000001#32 0xFFFFFFFE#32 old] ∧
          t.held .pr (prBlock c + 3) = some ((old &&& 0xFFFFFFFE#32) ||| 0x00000001#32)) ∧
        t.held .pr (prBlock c) = some (heldAt s .pr (prBlock c) 0) ∧
        t.held .pr (prBlock c + 1) = some (heldAt s .pr (prBlock c + 1) 1) ∧
        Ended 0x00000102#32 t ∧ RegsKept (solRegs ++ [.status, .phase]) s t ∧
        HeldKept [(.pr, prBlock c), (.pr, prBlock c + 1), (.pr, prBlock c + 3)] s t ∧ Drew 3 0 s t
      else
        (∃ first second es',
          CommitShape s t c 2 (heldAt s .pr (prBlock c) 0) (heldAt s .pr (prBlock c + 1) 1)
            first second es' ∧
          es = es' ++ [.delay 50] ∧ t.regNat .waitcnt = second.length ∧
          Drew (2 + first.length + 5 + second.length) 0 s t) ∧
        Ended 0x00000002#32 t ∧ RegsKept (solRegs ++ [.waitcnt, .status, .phase]) s t ∧
        HeldKept [(.pr, prBlock c), (.pr, prBlock c + 1), (.pr, prBlock c + 2)] s t) ∧
      NoCollab s t ∧ HostKept s t

/-- PLLPROG on any other chip (47_modeset.md R245 to R250): no read-back; it is the solution written,
then PLLCOMMIT, then the settle delay, as one command. The solution is PLLSOLVE's, or the pre-supplied
dividers' when HONOR_PRESUPPLIED is set. -/
def Obligations.PllprogIsSolveCommitDelay : Prop :=
  ∀ (c : Ctrl) (s : State), testBit (s.reg .caps) 0 = false →
    (testBit (s.reg .fSolve) 4 = false →
      ∃ p u, exec (.pllsolve c) s = .next p ∧ exec (.pllcommit c) p = .next u ∧
        exec (.pllprog c) s = .next { u with trace := u.trace ++ [.delay 50] }) ∧
    (testBit (s.reg .fSolve) 4 = true →
      ∃ u, exec (.pllcommit c)
          (withSolution s (s.reg .xRef) (s.reg .xFb) (s.reg .xPost)
            (BitVec.ofNat 32 (postCode (s.regNat .xPost)))
            (if s.reg .xRef = 0 ∨ s.reg .xPost = 0 then 0
              else BitVec.ofNat 32 (s.regNat (.dReffreq c) * s.regNat .xFb /
                (s.regNat .xRef * s.regNat .xPost)))
            (BitVec.ofNat 32 (gainOf (s.regNat (.dReffreq c)) (s.regNat .xRef)
              (s.regNat .xFb)))) = .next u ∧
        exec (.pllprog c) s = .next { u with trace := u.trace ++ [.delay 50] })

/-! ### BWNOTIFY -/

/-- BWNOTIFY c (47_modeset.md R252): one notification with SOL_CLK. -/
def Obligations.BwnotifyHandsOverClock : Prop :=
  ∀ (c : Ctrl) (s : State), ∃ t, exec (.bwnotify c) s = .next t ∧
    t.trace = s.trace ++ [.bw c (s.reg .solClk)] ∧ Ended 0x00000002#32 t ∧
    RegsKept [.status, .phase] s t ∧ HeldKept [] s t ∧ NoCollab s t ∧ HostKept s t ∧ Drew 0 0 s t

/-! ### SCALPROG -/

/-- SCALPROG 0 (43_scaler.md R158 to R162, 47_modeset.md R255): the two flags read, the parameters as
SCALCOMP computes them from those readings, the three read-modify-writes, the six writes when SC_OVR is
1, and CURPOL[0]. Every word read is what the register presents at that read (20_memory.md R76). -/
def Obligations.ScalprogPrimaryProgramsScaler : Prop :=
  ∀ s : State, ∃ t p h v o1 o2 o3,
    exec (.scalprog .primary) s = .next t ∧
    exec .scalcomp ((s.setReg .scHcur h).setReg .scVcur v) = .next p ∧
    h = readAt s .dr 0x008 0x00008000#32 0 ∧ v = readAt s .dr 0x009 0x00008000#32 1 ∧
    o1 = presented 0x00008000#32 (heldAt s .dr 0x008 0) (drawAt s 2) ∧
    o2 = presented 0x00008000#32 (heldAt s .dr 0x009 1) (drawAt s 3) ∧
    o3 = readAt s .dr 0x00A 0xFFFFFFFC#32 4 ∧
    (∀ r ∈ scRegs, t.reg r = p.reg r) ∧
    t.regNat (.curpol .primary) = policyNum s ∧
    t.trace = s.trace ++
      [.rd .dr 0x008 h, .rd .dr 0x009 v,
       rmwEvent .dr 0x008 (t.reg .scHstr) 0x00008000#32 o1,
       rmwEvent .dr 0x009 (t.reg .scVstr) 0x00008000#32 o2,
       rmwEvent .dr 0x00A (t.reg .scCenter) 0xFFFFFFFC#32 o3] ++
      (if t.reg .scOvr = 1 then
        [.wr .dr 0x00B (t.reg .scPtHtd), .wr .dr 0x00C (t.reg .scPtHsw),
         .wr .dr 0x00D (t.reg .scPtVtd), .wr .dr 0x00E (t.reg .scPtVsw),
         .wr .dr 0x00F (t.reg .scActH), .wr .dr 0x010 (t.reg .scActV)] else []) ∧
    t.held .dr 0x008 = some ((o1 &&& 0x00008000#32) ||| t.reg .scHstr) ∧
    t.held .dr 0x009 = some ((o2 &&& 0x00008000#32) ||| t.reg .scVstr) ∧
    t.held .dr 0x00A = some ((o3 &&& 0xFFFFFFFC#32) ||| t.reg .scCenter) ∧
    (t.reg .scOvr = 1 →
      t.held .dr 0x00B = some (t.reg .scPtHtd) ∧ t.held .dr 0x00C = some (t.reg .scPtHsw) ∧
      t.held .dr 0x00D = some (t.reg .scPtVtd) ∧ t.held .dr 0x00E = some (t.reg .scPtVsw) ∧
      t.held .dr 0x00F = some (t.reg .scActH) ∧ t.held .dr 0x010 = some (t.reg .scActV)) ∧
    HeldKept ([(.dr, 0x008), (.dr, 0x009), (.dr, 0x00A)] ++
      if t.reg .scOvr = 1 then [(.dr, 0x00B), (.dr, 0x00C), (.dr, 0x00D), (.dr, 0x00E),
        (.dr, 0x00F), (.dr, 0x010)] else []) s t ∧
    Ended 0x00000002#32 t ∧ RegsKept (scRegs ++ [.curpol .primary, .status, .phase]) s t ∧
    NoCollab s t ∧ HostKept s t ∧ Drew 5 0 s t

/-- SCALPROG 1 (47_modeset.md R255, R256): with Off, CURPOL[1] becomes 0 and nothing else happens; with
any other policy, whatever the panel, E_SCALING is set and nothing else happens. -/
def Obligations.ScalprogSecondaryTestsPolicy : Prop :=
  ∀ s : State,
    (policyNum s = 0 → ∃ t, exec (.scalprog .secondary) s = .next t ∧
      t.reg (.curpol .secondary) = 0 ∧ Ended 0x00000002#32 t ∧
      PureOn [.curpol .secondary, .status, .phase] s t) ∧
    (policyNum s ≠ 0 → ∃ t, exec (.scalprog .secondary) s = .next t ∧
      Ended 0x00000022#32 t ∧ PureOn [.status, .phase] s t)

/-! ### MODESET -/

/-- MODESET c that does not lose its pin (47_modeset.md R236) is the five step commands one after the
other: the same trace, the same register and hardware state, but that STATUS holds the flags of all
steps. -/
def Obligations.ModesetIsFiveSteps : Prop :=
  ∀ (c : Ctrl) (s : State), (s.regNat .fbFormat ∈ [8, 15, 16, 24, 32] → s.nextPin ≠ .fail) →
    ∃ s1 s2 s3 s4 s5, exec (.setbase c) s = .next s1 ∧ exec (.timprog c) s1 = .next s2 ∧
      exec (.pllprog c) s2 = .next s3 ∧ exec (.bwnotify c) s3 = .next s4 ∧
      exec (.scalprog c) s4 = .next s5 ∧
      exec (.modeset c) s = .next (s5.setReg .status
        (s1.reg .status ||| s2.reg .status ||| s3.reg .status ||| s4.reg .status |||
          s5.reg .status))

/-- The outcomes of MODESET c by the error flags (47_modeset.md R257, 60_exceptions.md R279): E_FORMAT
exactly for an unsupported format; E_ALLOC exactly when the format is supported and the pin fails;
E_SCALING exactly on the secondary with a policy other than Off after a step 1 that did not lose its
pin; E_ILLEGAL never. -/
def Obligations.ModesetOutcomes : Prop :=
  ∀ (c : Ctrl) (s : State), ∃ t, exec (.modeset c) s = .next t ∧
    (testBit (t.reg .status) 4 = true ↔ s.regNat .fbFormat ∉ [8, 15, 16, 24, 32]) ∧
    (testBit (t.reg .status) 6 = true ↔
      s.regNat .fbFormat ∈ [8, 15, 16, 24, 32] ∧ s.nextPin = .fail) ∧
    (testBit (t.reg .status) 5 = true ↔
      testBit (t.reg .status) 6 = false ∧ c = .secondary ∧ policyNum s ≠ 0) ∧
    testBit (t.reg .status) 7 = false ∧
    (testBit (t.reg .status) 6 = true → testBit (t.reg .status) 8 = false)

/-! ### Whole-machine rules -/

/-- No command writes an `rw` register (10_state.md R22): the operand registers and the descriptors are
unchanged by every command. -/
def Obligations.OperandsNeverWritten : Prop :=
  ∀ (i : Instr) (s : State), ∃ t, exec i s = .next t ∧
    ∀ r, ((Reg.index r).val ≤ 36 ∨ (40 ≤ (Reg.index r).val ∧ (Reg.index r).val ≤ 44)) →
      t.reg r = s.reg r

/-- Only DPMSSET changes a power state, only SETBASE and MODESET a current framebuffer, only SCALPROG and
MODESET a current policy, and each its own controller's (10_state.md R33, 46_dpms.md R225, 47_modeset.md
R255, R259). -/
def Obligations.PerControllerStateOwners : Prop :=
  ∀ (i : Instr) (s t : State) (d : Ctrl), exec i s = .next t →
    (t.reg (.pwr d) ≠ s.reg (.pwr d) → ∃ l, i = .dpmsset d l) ∧
    (t.reg (.curfb d) ≠ s.reg (.curfb d) → i = .setbase d ∨ i = .modeset d) ∧
    (t.reg (.curpol d) ≠ s.reg (.curpol d) → i = .scalprog d ∨ i = .modeset d)

/-- A command of one controller leaves the other alone (47_modeset.md R259, 45_atomic_update.md R208 (d)):
its display registers, its PLL bank, its per-controller state, and every event of the command is of the
command's controller. -/
def Obligations.OtherControllerUntouched : Prop :=
  ∀ (i : Instr) (c : Ctrl) (s t : State), ctrlOf i = some c → exec i s = .next t →
    (∀ sp a, inBlock (other c) sp a → t.held sp a = s.held sp a) ∧
    (∀ r ∈ [Reg.pwr (other c), .curpol (other c), .curfb (other c)], t.reg r = s.reg r) ∧
    t.paletteCount (other c) = s.paletteCount (other c) ∧
    ∃ es, t.trace = s.trace ++ es ∧ ∀ e ∈ es, eventOf c e

/-- Every command ends within the operations of each kind that 70_reset_and_hazards.md R325 counts: at most
12 writes, 8 read-modify-writes, 20004 reads, 3 collaborator calls and one delay. It adds to the trace only
at its end, and leaves STATUS not busy and done and PHASE 0 (30_encoding.md R91, R92). -/
def Obligations.CommandsEndWithinBound : Prop :=
  ∀ (i : Instr) (s : State), ∃ t es, exec i s = .next t ∧ t.trace = s.trace ++ es ∧
    es.countP isWrite ≤ 12 ∧ es.countP isRmw ≤ 8 ∧ es.countP isRead ≤ 20004 ∧
    es.countP isCall ≤ 3 ∧ es.countP isDelay ≤ 1 ∧ es.length ≤ 12 + 8 + 20004 + 3 + 1 ∧
    testBit (t.reg .status) 0 = false ∧ testBit (t.reg .status) 1 = true ∧ t.reg .phase = 0
end

