-- ==== Sys2Proof/Laws/Fields.lean ====
section
/-! SUPPORT. The laws of bits and fields (00_scope.md R10, R11): the value of a field in its place, the sum
of fields that do not overlap, and reading a field back. -/

namespace Sys2Proof.Laws

open Sys2Proof.Machine

/-- The value put into a field is below the field's bound. -/
theorem emod_toNat_lt (v : Int) (n : Nat) : (v % (2 ^ n : Nat)).toNat < 2 ^ n := by
  have h0 : (0 : Int) < (2 ^ n : Nat) := by positivity
  have h1 := Int.emod_lt_of_pos v h0
  have h2 := Int.emod_nonneg v (ne_of_gt h0)
  omega

/-- A field's contribution to its word. -/
theorem toNat_fieldAt (v : Int) {n k : Nat} (h : n + k ≤ 32) :
    (fieldAt v n k).toNat = (v % (2 ^ n : Nat)).toNat * 2 ^ k := by
  have hv := emod_toNat_lt v n
  have hlt : (v % (2 ^ n : Nat)).toNat * 2 ^ k < 2 ^ 32 := by
    calc (v % (2 ^ n : Nat)).toNat * 2 ^ k < 2 ^ n * 2 ^ k :=
          Nat.mul_lt_mul_of_pos_right hv (by positivity)
      _ = 2 ^ (n + k) := (pow_add 2 n k).symm
      _ ≤ 2 ^ 32 := Nat.pow_le_pow_right (by norm_num) h
  have hk : (v % (2 ^ n : Nat)).toNat < 2 ^ 32 :=
    lt_of_lt_of_le hv (Nat.pow_le_pow_right (by norm_num) (by omega))
  unfold fieldAt
  rw [BitVec.toNat_shiftLeft, BitVec.toNat_ofNat, Nat.mod_eq_of_lt hk, Nat.shiftLeft_eq,
    Nat.mod_eq_of_lt hlt]

/-- The contribution of a natural number. -/
theorem toNat_fieldAt_nat (v : Nat) {n k : Nat} (h : n + k ≤ 32) :
    (fieldAt v n k).toNat = v % 2 ^ n * 2 ^ k := by
  rw [toNat_fieldAt _ h]
  congr 1

/-- A field of a natural number as a word. -/
theorem fieldAt_nat (v : Nat) {n k : Nat} (h : n + k ≤ 32) :
    fieldAt v n k = BitVec.ofNat 32 (v % 2 ^ n * 2 ^ k) := by
  have hlt : v % 2 ^ n * 2 ^ k < 2 ^ 32 := by
    calc v % 2 ^ n * 2 ^ k < 2 ^ n * 2 ^ k :=
          Nat.mul_lt_mul_of_pos_right (Nat.mod_lt _ (by positivity)) (by positivity)
      _ = 2 ^ (n + k) := (pow_add 2 n k).symm
      _ ≤ 2 ^ 32 := Nat.pow_le_pow_right (by norm_num) h
  apply BitVec.eq_of_toNat_eq
  rw [toNat_fieldAt_nat v h, BitVec.toNat_ofNat, Nat.mod_eq_of_lt hlt]

/-- The value of a word made of a low part and a part above it. -/
theorem toNat_or_above {a b : Word} {k m : Nat} (ha : a.toNat < 2 ^ k) (hb : b.toNat = m * 2 ^ k) :
    (a ||| b).toNat = a.toNat + b.toNat := by
  rw [BitVec.toNat_or, Nat.or_comm, hb, mul_comm m, ← Nat.two_pow_add_eq_or_of_lt ha, add_comm]

/-- A bit's contribution to its word. -/
theorem toNat_bitIf (b : Bool) {k : Nat} (h : k < 32) :
    (bitIf b k).toNat = (if b then 1 else 0) * 2 ^ k := by
  cases b
  · simp [bitIf]
  · have : 2 ^ k < 2 ^ 32 := Nat.pow_lt_pow_right (by norm_num) h
    simpa [bitIf, bitWord, BitVec.toNat_shiftLeft, Nat.shiftLeft_eq] using this

/-- Reading n bits from bit k on of a word made of a part below, a value, and a part above. -/
theorem bitsAt_of_toNat {w : Word} {n k low v high : Nat} (h : w.toNat = low + (v + high * 2 ^ n) * 2 ^ k)
    (hl : low < 2 ^ k) (hv : v < 2 ^ n) : bitsAt w n k = v := by
  unfold bitsAt
  rw [h, Nat.add_mul_div_right _ _ (by positivity), Nat.div_eq_of_lt hl, zero_add,
    Nat.add_mul_mod_self_right, Nat.mod_eq_of_lt hv]

/-- A bit of a word is a field of one bit. -/
theorem testBit_eq (w : Word) (k : Nat) : testBit w k = (bitsAt w 1 k == 1) := by
  unfold testBit bitsAt
  rw [← BitVec.testBit_toNat, Nat.testBit_eq_decide_div_mod_eq, pow_one]
  rfl

/-- The bits of a field. -/
theorem getLsbD_fieldAt (v : Int) (n k i : Nat) :
    (fieldAt v n k).getLsbD i =
      (decide (i < 32) && decide (k ≤ i) && decide (i - k < n) &&
        (v % (2 ^ n : Nat)).toNat.testBit (i - k)) := by
  unfold fieldAt
  rw [BitVec.getLsbD_shiftLeft, BitVec.getLsbD_ofNat]
  by_cases h1 : i < 32
  · by_cases h2 : i < k
    · simp [h1, h2, Nat.not_le.2 h2]
    · have h3 : k ≤ i := Nat.le_of_not_lt h2
      by_cases h4 : i - k < n
      · have : i - k < 32 := by omega
        simp [h1, h2, h3, h4, this]
      · have : (v % (2 ^ n : Nat)).toNat.testBit (i - k) = false :=
          Nat.testBit_lt_two_pow (lt_of_lt_of_le (emod_toNat_lt v n)
            (Nat.pow_le_pow_right (by norm_num) (Nat.le_of_not_lt h4)))
        rw [this]; simp
  · simp [h1]

/-- The bits that a field stands in. -/
theorem getLsbD_fieldMask (f : Field) (i : Nat) :
    (fieldMask f).getLsbD i = (decide (i < 32) && decide (f.pos ≤ i) && decide (i - f.pos < f.width)) := by
  have hp : 0 < 2 ^ f.width := by positivity
  have e : ((2 ^ f.width - 1 : Int) % (2 ^ f.width : Nat)).toNat = 2 ^ f.width - 1 := by
    rw [Int.emod_eq_of_lt]
    · have : (2 ^ f.width - 1 : Int) = ((2 ^ f.width - 1 : Nat) : Int) := by
        rw [Nat.cast_sub hp]; simp
      rw [this, Int.toNat_natCast]
    · have : (1 : Int) ≤ 2 ^ f.width := by exact_mod_cast hp
      omega
    · push_cast; omega
  rw [fieldMask, getLsbD_fieldAt, e, Nat.testBit_two_pow_sub_one]
  by_cases h : i - f.pos < f.width <;> simp [h]

/-- A value in its field has no bit outside the field. -/
theorem putField_and_not_mask (f : Field) (v : Int) : putField f v &&& ~~~fieldMask f = 0 := by
  apply BitVec.eq_of_getLsbD_eq
  intro i hi
  simp only [BitVec.getLsbD_and, BitVec.getLsbD_not, putField, getLsbD_fieldAt, getLsbD_fieldMask]
  by_cases h : decide (i < 32) && decide (f.pos ≤ i) && decide (i - f.pos < f.width)
  · simp_all
  · simp only [Bool.not_eq_true] at h
    rw [h]; simp

/-- A read-modify-write whose value has no kept bit (20_memory.md R65). -/
theorem rmwWord_of_disjoint {v keep : Word} (old : Word) (h : v &&& keep = 0) :
    rmwWord old v keep = (old &&& keep) ||| v := by
  have : v &&& ~~~keep = v := by
    apply BitVec.eq_of_getLsbD_eq
    intro i hi
    have := congrArg (fun w : Word => w.getLsbD i) h
    simp only [BitVec.getLsbD_and, BitVec.getLsbD_not] at this ⊢
    cases hv : v.getLsbD i <;> simp_all
  rw [rmwWord, this]

end Sys2Proof.Laws
end

