-- ==== Sys2Proof/Laws/State.lean ====
section
/-! SUPPORT. The small lemmas of the state: each accessor after each update. -/

namespace Sys2Proof.Laws

open Sys2Proof.Machine

/-- The registers in the order of their indices. -/
def regList : List Reg :=
  [.mHdisp, .mHtotal, .mHss, .mHse, .mHbs, .mHbe, .mVdisp, .mVtotal, .mVss, .mVse, .mVbs, .mVbe,
   .mFlags, .mClock, .pW, .pH, .sPolicy, .fbHandle, .fbX, .fbY, .fbPitch, .fbFormat, .fSolve,
   .xRef, .xFb, .xPost, .gReffreq, .gRef, .gFb, .scHcur, .scVcur, .caps] ++
  [.dReffreq .primary, .dMaxref .primary, .dMinfb .primary, .dMaxfb .primary, .dRefovr .primary,
   .pwr .primary, .curpol .primary, .curfb .primary,
   .dReffreq .secondary, .dMaxref .secondary, .dMinfb .secondary, .dMaxfb .secondary,
   .dRefovr .secondary, .pwr .secondary, .curpol .secondary, .curfb .secondary] ++
  [.solRef, .solFb, .solFrac, .solPost, .solPcode, .solClk, .solGain, .gOut,
   .tpHtd, .tpHsw, .tpVtd, .tpVsw, .tpCtl, .scHstr, .scVstr, .scCenter, .scOvr,
   .scPtHtd, .scPtHsw, .scPtVtd, .scPtVsw, .scActH, .scActV, .status, .phase, .waitcnt]

theorem regList_index (r : Reg) : regList[(Reg.index r).val]? = some r := by
  cases r <;> first | rfl | (rename_i c; cases c <;> rfl)

/-- No two names stand for one register (10_state.md R22 "no aliases"). -/
theorem index_injective : Function.Injective Reg.index := by
  intro a b h
  have ha := regList_index a
  rw [h, regList_index b] at ha
  exact (Option.some.inj ha).symm

/-- Reading a register after a register has been written. -/
theorem reg_setReg (s : State) (a b : Reg) (v : Word) :
    (s.setReg a v).reg b = if a = b then v else s.reg b := by
  unfold State.reg State.setReg
  rw [Vector.getElem_set]
  have : ((Reg.index a).val = (Reg.index b).val) ↔ a = b := by
    rw [← Fin.ext_iff]; exact index_injective.eq_iff
  simp only [this]

@[simp] theorem reg_setReg_same (s : State) (a : Reg) (v : Word) : (s.setReg a v).reg a = v := by
  simp [reg_setReg]

theorem reg_setReg_ne (s : State) {a b : Reg} (v : Word) (h : a ≠ b) :
    (s.setReg a v).reg b = s.reg b := by simp [reg_setReg, h]

theorem reg_setRegNat (s : State) (a b : Reg) (v : Nat) :
    (s.setRegNat a v).reg b = if a = b then BitVec.ofNat 32 v else s.reg b := reg_setReg _ _ _ _

/-! ### Every field after a register write -/

section setReg
variable (s : State) (r : Reg) (v : Word)
@[simp] theorem setReg_dr : (s.setReg r v).dr = s.dr := rfl
@[simp] theorem setReg_pr : (s.setReg r v).pr = s.pr := rfl
@[simp] theorem setReg_pins : (s.setReg r v).pins = s.pins := rfl
@[simp] theorem setReg_palettePri : (s.setReg r v).palettePri = s.palettePri := rfl
@[simp] theorem setReg_paletteSec : (s.setReg r v).paletteSec = s.paletteSec := rfl
@[simp] theorem setReg_trace : (s.setReg r v).trace = s.trace := rfl
@[simp] theorem setReg_host : (s.setReg r v).host = s.host := rfl
@[simp] theorem setReg_hostSeen : (s.setReg r v).hostSeen = s.hostSeen := rfl
@[simp] theorem setReg_readDraws : (s.setReg r v).readDraws = s.readDraws := rfl
@[simp] theorem setReg_pinDraws : (s.setReg r v).pinDraws = s.pinDraws := rfl
@[simp] theorem setReg_drawn : (s.setReg r v).drawn = s.drawn := rfl
@[simp] theorem setReg_nextRead : (s.setReg r v).nextRead = s.nextRead := rfl
@[simp] theorem setReg_nextPin : (s.setReg r v).nextPin = s.nextPin := rfl
@[simp] theorem setReg_space (sp : Space) : (s.setReg r v).space sp = s.space sp := by cases sp <;> rfl
@[simp] theorem setReg_held (sp : Space) (a : Nat) : (s.setReg r v).held sp a = s.held sp a := by
  simp [State.held]
end setReg

section setRegNat
variable (s : State) (r : Reg) (v : Nat)
@[simp] theorem setRegNat_dr : (s.setRegNat r v).dr = s.dr := rfl
@[simp] theorem setRegNat_pr : (s.setRegNat r v).pr = s.pr := rfl
@[simp] theorem setRegNat_pins : (s.setRegNat r v).pins = s.pins := rfl
@[simp] theorem setRegNat_palettePri : (s.setRegNat r v).palettePri = s.palettePri := rfl
@[simp] theorem setRegNat_paletteSec : (s.setRegNat r v).paletteSec = s.paletteSec := rfl
@[simp] theorem setRegNat_trace : (s.setRegNat r v).trace = s.trace := rfl
@[simp] theorem setRegNat_host : (s.setRegNat r v).host = s.host := rfl
@[simp] theorem setRegNat_hostSeen : (s.setRegNat r v).hostSeen = s.hostSeen := rfl
@[simp] theorem setRegNat_readDraws : (s.setRegNat r v).readDraws = s.readDraws := rfl
@[simp] theorem setRegNat_pinDraws : (s.setRegNat r v).pinDraws = s.pinDraws := rfl
@[simp] theorem setRegNat_drawn : (s.setRegNat r v).drawn = s.drawn := rfl
@[simp] theorem setRegNat_nextRead : (s.setRegNat r v).nextRead = s.nextRead := rfl
@[simp] theorem setRegNat_nextPin : (s.setRegNat r v).nextPin = s.nextPin := rfl
@[simp] theorem setRegNat_held (sp : Space) (a : Nat) :
    (s.setRegNat r v).held sp a = s.held sp a := setReg_held _ _ _ _ _
end setRegNat

/-! ### Every field after an event -/

section log
variable (s : State) (e : Event)
@[simp] theorem log_reg (r : Reg) : (s.log e).reg r = s.reg r := rfl
@[simp] theorem log_regs : (s.log e).regs = s.regs := rfl
@[simp] theorem log_dr : (s.log e).dr = s.dr := rfl
@[simp] theorem log_pr : (s.log e).pr = s.pr := rfl
@[simp] theorem log_pins : (s.log e).pins = s.pins := rfl
@[simp] theorem log_palettePri : (s.log e).palettePri = s.palettePri := rfl
@[simp] theorem log_paletteSec : (s.log e).paletteSec = s.paletteSec := rfl
@[simp] theorem log_trace : (s.log e).trace = s.trace ++ [e] := rfl
@[simp] theorem log_host : (s.log e).host = s.host := rfl
@[simp] theorem log_hostSeen : (s.log e).hostSeen = s.hostSeen := rfl
@[simp] theorem log_readDraws : (s.log e).readDraws = s.readDraws := rfl
@[simp] theorem log_pinDraws : (s.log e).pinDraws = s.pinDraws := rfl
@[simp] theorem log_drawn : (s.log e).drawn = s.drawn := rfl
@[simp] theorem log_nextRead : (s.log e).nextRead = s.nextRead := rfl
@[simp] theorem log_nextPin : (s.log e).nextPin = s.nextPin := rfl
@[simp] theorem log_held (sp : Space) (a : Nat) : (s.log e).held sp a = s.held sp a := by
  cases sp <;> rfl
end log

/-! ### Every field after a draw -/

section draws
variable (s : State)
@[simp] theorem advanceRead_reg (r : Reg) : s.advanceRead.reg r = s.reg r := rfl
@[simp] theorem advanceRead_regs : s.advanceRead.regs = s.regs := rfl
@[simp] theorem advanceRead_dr : s.advanceRead.dr = s.dr := rfl
@[simp] theorem advanceRead_pr : s.advanceRead.pr = s.pr := rfl
@[simp] theorem advanceRead_pins : s.advanceRead.pins = s.pins := rfl
@[simp] theorem advanceRead_palettePri : s.advanceRead.palettePri = s.palettePri := rfl
@[simp] theorem advanceRead_paletteSec : s.advanceRead.paletteSec = s.paletteSec := rfl
@[simp] theorem advanceRead_trace : s.advanceRead.trace = s.trace := rfl
@[simp] theorem advanceRead_host : s.advanceRead.host = s.host := rfl
@[simp] theorem advanceRead_hostSeen : s.advanceRead.hostSeen = s.hostSeen := rfl
@[simp] theorem advanceRead_readDraws : s.advanceRead.readDraws = s.readDraws.tail := rfl
@[simp] theorem advanceRead_pinDraws : s.advanceRead.pinDraws = s.pinDraws := rfl
@[simp] theorem advanceRead_drawn : s.advanceRead.drawn = s.drawn + 1 := rfl
@[simp] theorem advanceRead_held (sp : Space) (a : Nat) :
    s.advanceRead.held sp a = s.held sp a := by cases sp <;> rfl
@[simp] theorem advancePin_reg (r : Reg) : s.advancePin.reg r = s.reg r := rfl
@[simp] theorem advancePin_regs : s.advancePin.regs = s.regs := rfl
@[simp] theorem advancePin_dr : s.advancePin.dr = s.dr := rfl
@[simp] theorem advancePin_pr : s.advancePin.pr = s.pr := rfl
@[simp] theorem advancePin_pins : s.advancePin.pins = s.pins := rfl
@[simp] theorem advancePin_palettePri : s.advancePin.palettePri = s.palettePri := rfl
@[simp] theorem advancePin_paletteSec : s.advancePin.paletteSec = s.paletteSec := rfl
@[simp] theorem advancePin_trace : s.advancePin.trace = s.trace := rfl
@[simp] theorem advancePin_host : s.advancePin.host = s.host := rfl
@[simp] theorem advancePin_hostSeen : s.advancePin.hostSeen = s.hostSeen := rfl
@[simp] theorem advancePin_readDraws : s.advancePin.readDraws = s.readDraws := rfl
@[simp] theorem advancePin_pinDraws : s.advancePin.pinDraws = s.pinDraws.tail := rfl
@[simp] theorem advancePin_drawn : s.advancePin.drawn = s.drawn + 1 := rfl
@[simp] theorem advancePin_held (sp : Space) (a : Nat) :
    s.advancePin.held sp a = s.held sp a := by cases sp <;> rfl
end draws

/-! ### Every field after a store into a space -/

section store
variable (s : State) (sp : Space) (a : Nat) (v : Word)
@[simp] theorem store_regs : (s.store sp a v).regs = s.regs := by cases sp <;> rfl
@[simp] theorem store_reg (r : Reg) : (s.store sp a v).reg r = s.reg r := by cases sp <;> rfl
@[simp] theorem store_pins : (s.store sp a v).pins = s.pins := by cases sp <;> rfl
@[simp] theorem store_palettePri : (s.store sp a v).palettePri = s.palettePri := by cases sp <;> rfl
@[simp] theorem store_paletteSec : (s.store sp a v).paletteSec = s.paletteSec := by cases sp <;> rfl
@[simp] theorem store_trace : (s.store sp a v).trace = s.trace := by cases sp <;> rfl
@[simp] theorem store_host : (s.store sp a v).host = s.host := by cases sp <;> rfl
@[simp] theorem store_hostSeen : (s.store sp a v).hostSeen = s.hostSeen := by cases sp <;> rfl
@[simp] theorem store_readDraws : (s.store sp a v).readDraws = s.readDraws := by cases sp <;> rfl
@[simp] theorem store_pinDraws : (s.store sp a v).pinDraws = s.pinDraws := by cases sp <;> rfl
@[simp] theorem store_drawn : (s.store sp a v).drawn = s.drawn := by cases sp <;> rfl
@[simp] theorem store_space_same : (s.store sp a v).space sp = tableSet a v (s.space sp) := by
  cases sp <;> rfl
theorem store_space (sq : Space) :
    (s.store sp a v).space sq = if sq = sp then tableSet a v (s.space sp) else s.space sq := by
  cases sp <;> cases sq <;> rfl
end store

/-! ### The host's own fields -/

section popHost
variable (s : State)
@[simp] theorem popHost_reg (r : Reg) : s.popHost.reg r = s.reg r := rfl
@[simp] theorem popHost_regs : s.popHost.regs = s.regs := rfl
@[simp] theorem popHost_dr : s.popHost.dr = s.dr := rfl
@[simp] theorem popHost_pr : s.popHost.pr = s.pr := rfl
@[simp] theorem popHost_pins : s.popHost.pins = s.pins := rfl
@[simp] theorem popHost_trace : s.popHost.trace = s.trace := rfl
@[simp] theorem popHost_host : s.popHost.host = s.host.tail := rfl
@[simp] theorem popHost_busy : s.popHost.busy = s.busy := rfl
@[simp] theorem issueNext_host (w : Word) : (s.issueNext w).host = .issue w :: s.host := rfl
@[simp] theorem issueNext_reg (w : Word) (r : Reg) : (s.issueNext w).reg r = s.reg r := rfl
theorem issueNext_popHost (w : Word) : (s.issueNext w).popHost = s := rfl
end popHost

end Sys2Proof.Laws
end

