-- ==== Sys2Proof/Laws/Table.lean ====
section
/-! SUPPORT. The laws of the sparse tables: what a lookup gives after a change, and that every change
keeps the canonical form. -/

namespace Sys2Proof.Laws

open Sys2Proof.Machine

variable {α : Type}

@[simp] theorem tableGet_nil (a : Nat) : tableGet a ([] : List (Nat × α)) = none := rfl

/-- A lookup after a set, at the key and elsewhere. -/
theorem tableGet_tableSet (a b : Nat) (v : α) (m : List (Nat × α)) :
    tableGet b (tableSet a v m) = if b = a then some v else tableGet b m := by
  induction m with
  | nil => simp [tableSet, tableGet]
  | cons e rest ih =>
    obtain ⟨c, w⟩ := e
    simp only [tableSet]
    split_ifs <;> simp_all [tableGet]

@[simp] theorem tableGet_tableSet_same (a : Nat) (v : α) (m : List (Nat × α)) :
    tableGet a (tableSet a v m) = some v := by simp [tableGet_tableSet]

/-- A lookup after an erase, at the key and elsewhere. -/
theorem tableGet_tableErase (a b : Nat) (m : List (Nat × α)) :
    tableGet b (tableErase a m) = if b = a then none else tableGet b m := by
  induction m with
  | nil => simp [tableErase, tableGet]
  | cons e rest ih =>
    obtain ⟨c, w⟩ := e
    simp only [tableErase]
    split_ifs <;> simp_all [tableGet]

/-- Every key of the table is above `n`. -/
def keysAbove (n : Nat) (m : List (Nat × α)) : Prop := ∀ e ∈ m, n < e.1

theorem tableRising_cons (a : Nat) (v : α) (m : List (Nat × α)) :
    tableRising ((a, v) :: m) = true ↔ keysAbove a m ∧ tableRising m = true := by
  induction m generalizing a v with
  | nil => simp [tableRising, keysAbove]
  | cons e rest ih =>
    obtain ⟨b, w⟩ := e
    simp only [tableRising, Bool.and_eq_true, decide_eq_true_eq, keysAbove, List.mem_cons,
      forall_eq_or_imp]
    constructor
    · rintro ⟨h, hr⟩
      exact ⟨⟨h, fun e he => lt_trans h (((ih b w).1 hr).1 e he)⟩, hr⟩
    · rintro ⟨⟨h, -⟩, hr⟩
      exact ⟨h, hr⟩

theorem keysAbove_tableSet {n a : Nat} {v : α} {m : List (Nat × α)} (h : keysAbove n m) (ha : n < a) :
    keysAbove n (tableSet a v m) := by
  induction m with
  | nil => simpa [tableSet, keysAbove] using ha
  | cons e rest ih =>
    obtain ⟨b, w⟩ := e
    simp only [keysAbove, List.mem_cons, forall_eq_or_imp] at h
    have ih := ih h.2
    simp only [tableSet]
    split_ifs <;> intro e he <;> rcases List.mem_cons.1 he with rfl | he
    · exact ha
    · exact h.2 e he
    · exact ha
    · rcases List.mem_cons.1 he with rfl | he
      · exact h.1
      · exact h.2 e he
    · exact h.1
    · exact ih e he

/-- A set keeps the canonical form. -/
theorem tableRising_tableSet (a : Nat) (v : α) {m : List (Nat × α)} (h : tableRising m = true) :
    tableRising (tableSet a v m) = true := by
  induction m with
  | nil => rfl
  | cons e rest ih =>
    obtain ⟨b, w⟩ := e
    obtain ⟨hab, hr⟩ := (tableRising_cons b w rest).1 h
    simp only [tableSet]
    split_ifs with h1 h2
    · subst h1; exact (tableRising_cons _ _ _).2 ⟨hab, hr⟩
    · exact (tableRising_cons _ _ _).2 ⟨fun e he => by
        rcases List.mem_cons.1 he with rfl | he
        · exact h2
        · exact lt_trans h2 (hab e he), h⟩
    · exact (tableRising_cons _ _ _).2 ⟨keysAbove_tableSet hab (by omega), ih hr⟩

theorem tableErase_subset (a : Nat) (m : List (Nat × α)) : ∀ e ∈ tableErase a m, e ∈ m := by
  induction m with
  | nil => simp [tableErase]
  | cons e rest ih =>
    obtain ⟨b, w⟩ := e
    simp only [tableErase]
    split_ifs
    · exact fun e he => List.mem_cons_of_mem _ (ih e he)
    · intro e he
      rcases List.mem_cons.1 he with rfl | he
      · exact List.mem_cons_self
      · exact List.mem_cons_of_mem _ (ih e he)

/-- An erase keeps the canonical form. -/
theorem tableRising_tableErase (a : Nat) {m : List (Nat × α)} (h : tableRising m = true) :
    tableRising (tableErase a m) = true := by
  induction m with
  | nil => rfl
  | cons e rest ih =>
    obtain ⟨b, w⟩ := e
    obtain ⟨hab, hr⟩ := (tableRising_cons b w rest).1 h
    simp only [tableErase]
    split_ifs
    · exact ih hr
    · exact (tableRising_cons _ _ _).2 ⟨fun e he => hab e (tableErase_subset a rest e he), ih hr⟩

theorem mem_tableSet {a : Nat} {v : α} {m : List (Nat × α)} {e : Nat × α}
    (h : e ∈ tableSet a v m) : e = (a, v) ∨ e ∈ m := by
  induction m with
  | nil => simpa [tableSet] using h
  | cons x rest ih =>
    obtain ⟨b, w⟩ := x
    simp only [tableSet] at h
    split_ifs at h <;> simp_all
    · tauto
    · rcases h with h | h
      · tauto
      · rcases ih h with h | h <;> tauto

/-- A pin keeps the canonical form of the pin counts. -/
theorem pinsWf_pinsAdd (h : Nat) {m : List (Nat × Nat)} (hm : pinsWf m = true) :
    pinsWf (pinsAdd h m) = true := by
  simp only [pinsWf, Bool.and_eq_true, List.all_eq_true, decide_eq_true_eq] at hm ⊢
  refine ⟨tableRising_tableSet _ _ hm.1, fun e he => ?_⟩
  rcases mem_tableSet he with rfl | he
  · simp
  · exact hm.2 e he

/-- An unpin keeps the canonical form of the pin counts. -/
theorem pinsWf_pinsRemove (h : Nat) {m : List (Nat × Nat)} (hm : pinsWf m = true) :
    pinsWf (pinsRemove h m) = true := by
  have hm' := hm
  simp only [pinsWf, Bool.and_eq_true, List.all_eq_true, decide_eq_true_eq] at hm ⊢
  unfold pinsRemove
  split
  · exact hm
  · split
    · exact ⟨tableRising_tableErase _ hm.1, fun e he => hm.2 e (tableErase_subset _ _ e he)⟩
    · refine ⟨tableRising_tableSet _ _ hm.1, fun e he => ?_⟩
      rcases mem_tableSet he with rfl | he
      · simp only; omega
      · exact hm.2 e he

/-- The outstanding pins of a handle after a pin. -/
theorem pinsAdd_get (h g : Nat) (m : List (Nat × Nat)) :
    (tableGet g (pinsAdd h m)).getD 0 = (tableGet g m).getD 0 + if g = h then 1 else 0 := by
  unfold pinsAdd
  rw [tableGet_tableSet]
  split_ifs with e
  · subst e; rfl
  · rfl

/-- The outstanding pins of a handle after an unpin. -/
theorem pinsRemove_get (h g : Nat) (m : List (Nat × Nat)) :
    (tableGet g (pinsRemove h m)).getD 0 = (tableGet g m).getD 0 - if g = h then 1 else 0 := by
  unfold pinsRemove
  split
  next e =>
    split_ifs with e'
    · subst e'; simp [e]
    · rfl
  next n e =>
    split
    · rw [tableGet_tableErase]
      split_ifs with e'
      · subst e'; simp [e]; omega
      · rfl
    · rw [tableGet_tableSet]
      split_ifs with e'
      · subst e'; simp [e]
      · rfl

end Sys2Proof.Laws
end

