-- ==== Sys2Proof/Laws/Ops.lean ====
section
/-! SUPPORT. What each shared operation does, said once: the register-I/O primitives (20_memory.md R63 to
R69, R76), the collaborator calls (R78 to R82), raising an error (60_exceptions.md R271) and the frame
of a command (30_encoding.md R91). Proofs cite these and unfold no operation. -/

namespace Sys2Proof.Laws

open Sys2Proof.Machine

/-! ### Stores and reads of a space -/

/-- What every register of both spaces holds after a store. -/
theorem store_held (s : State) (sp sq : Space) (a b : Nat) (v : Word) :
    (s.store sp a v).held sq b = if sq = sp ∧ b = a then some v else s.held sq b := by
  unfold State.held
  rw [store_space]
  by_cases h : sq = sp
  · subst h; simp [tableGet_tableSet]
  · simp [h]

/-- What every register of both spaces holds after a read: the register that was read holds what it held
or the value drawn, the others what they held (20_memory.md R76). -/
theorem afterRead_held (s : State) (sp sq : Space) (a b : Nat) :
    (s.afterRead sp a).held sq b =
      if sq = sp ∧ b = a then some ((s.held sp a).getD s.nextRead) else s.held sq b := by
  unfold State.afterRead
  split
  next w h =>
    rw [advanceRead_held]
    split_ifs with e
    · obtain ⟨rfl, rfl⟩ := e; simp [h]
    · rfl
  next h =>
    rw [store_held]
    split_ifs with e
    · simp [h]
    · simp

/-- A read of a register that holds a value presents it but for the hardware-owned bits. -/
theorem readValue_some {s : State} {sp : Space} {a : Nat} {w : Word} (owned : Word)
    (h : s.held sp a = some w) :
    s.readValue sp a owned = (w &&& ~~~owned) ||| (s.nextRead &&& owned) := by
  simp [State.readValue, h]

/-- A read of a register that holds none presents the draw whole. -/
theorem readValue_none {s : State} {sp : Space} {a : Nat} (owned : Word) (h : s.held sp a = none) :
    s.readValue sp a owned = s.nextRead := by simp [State.readValue, h]

section afterRead
variable (s : State) (sp : Space) (a : Nat)
@[simp] theorem afterRead_regs : (s.afterRead sp a).regs = s.regs := by
  unfold State.afterRead; split <;> simp
@[simp] theorem afterRead_reg (r : Reg) : (s.afterRead sp a).reg r = s.reg r := by
  unfold State.afterRead; split <;> simp
@[simp] theorem afterRead_pins : (s.afterRead sp a).pins = s.pins := by
  unfold State.afterRead; split <;> simp
@[simp] theorem afterRead_palettePri : (s.afterRead sp a).palettePri = s.palettePri := by
  unfold State.afterRead; split <;> simp
@[simp] theorem afterRead_paletteSec : (s.afterRead sp a).paletteSec = s.paletteSec := by
  unfold State.afterRead; split <;> simp
@[simp] theorem afterRead_trace : (s.afterRead sp a).trace = s.trace := by
  unfold State.afterRead; split <;> simp
@[simp] theorem afterRead_host : (s.afterRead sp a).host = s.host := by
  unfold State.afterRead; split <;> simp
@[simp] theorem afterRead_hostSeen : (s.afterRead sp a).hostSeen = s.hostSeen := by
  unfold State.afterRead; split <;> simp
@[simp] theorem afterRead_readDraws : (s.afterRead sp a).readDraws = s.readDraws.tail := by
  unfold State.afterRead; split <;> simp
@[simp] theorem afterRead_pinDraws : (s.afterRead sp a).pinDraws = s.pinDraws := by
  unfold State.afterRead; split <;> simp
@[simp] theorem afterRead_drawn : (s.afterRead sp a).drawn = s.drawn + 1 := by
  unfold State.afterRead; split <;> simp
end afterRead

/-! ### `MemRead` and `PllRead` -/

section busRead
variable (sp : Space) (a : Nat) (owned : Word) (s : State)
@[simp] theorem busRead_value : (busRead sp a owned s).1 = s.readValue sp a owned := rfl
@[simp] theorem busRead_regs : (busRead sp a owned s).2.regs = s.regs := by simp [busRead]
@[simp] theorem busRead_reg (r : Reg) : (busRead sp a owned s).2.reg r = s.reg r := by simp [busRead]
@[simp] theorem busRead_pins : (busRead sp a owned s).2.pins = s.pins := by simp [busRead]
@[simp] theorem busRead_palettePri : (busRead sp a owned s).2.palettePri = s.palettePri := by
  simp [busRead]
@[simp] theorem busRead_paletteSec : (busRead sp a owned s).2.paletteSec = s.paletteSec := by
  simp [busRead]
@[simp] theorem busRead_trace :
    (busRead sp a owned s).2.trace = s.trace ++ [.rd sp a (s.readValue sp a owned)] := by
  simp [busRead]
@[simp] theorem busRead_host : (busRead sp a owned s).2.host = s.host := by simp [busRead]
@[simp] theorem busRead_hostSeen : (busRead sp a owned s).2.hostSeen = s.hostSeen := by simp [busRead]
@[simp] theorem busRead_readDraws : (busRead sp a owned s).2.readDraws = s.readDraws.tail := by
  simp [busRead]
@[simp] theorem busRead_pinDraws : (busRead sp a owned s).2.pinDraws = s.pinDraws := by simp [busRead]
@[simp] theorem busRead_drawn : (busRead sp a owned s).2.drawn = s.drawn + 1 := by simp [busRead]
theorem busRead_held (sq : Space) (b : Nat) :
    (busRead sp a owned s).2.held sq b =
      if sq = sp ∧ b = a then some ((s.held sp a).getD s.nextRead) else s.held sq b := by
  simp [busRead, afterRead_held]
end busRead

/-! ### `MemWrite` and `PllWrite` -/

section busWrite
variable (sp : Space) (a : Nat) (v : Word) (s : State)
@[simp] theorem busWrite_regs : (busWrite sp a v s).regs = s.regs := by simp [busWrite]
@[simp] theorem busWrite_reg (r : Reg) : (busWrite sp a v s).reg r = s.reg r := by simp [busWrite]
@[simp] theorem busWrite_pins : (busWrite sp a v s).pins = s.pins := by simp [busWrite]
@[simp] theorem busWrite_palettePri : (busWrite sp a v s).palettePri = s.palettePri := by
  simp [busWrite]
@[simp] theorem busWrite_paletteSec : (busWrite sp a v s).paletteSec = s.paletteSec := by
  simp [busWrite]
@[simp] theorem busWrite_trace : (busWrite sp a v s).trace = s.trace ++ [.wr sp a v] := by
  simp [busWrite]
@[simp] theorem busWrite_host : (busWrite sp a v s).host = s.host := by simp [busWrite]
@[simp] theorem busWrite_hostSeen : (busWrite sp a v s).hostSeen = s.hostSeen := by simp [busWrite]
@[simp] theorem busWrite_readDraws : (busWrite sp a v s).readDraws = s.readDraws := by simp [busWrite]
@[simp] theorem busWrite_pinDraws : (busWrite sp a v s).pinDraws = s.pinDraws := by simp [busWrite]
@[simp] theorem busWrite_drawn : (busWrite sp a v s).drawn = s.drawn := by simp [busWrite]
theorem busWrite_held (sq : Space) (b : Nat) :
    (busWrite sp a v s).held sq b = if sq = sp ∧ b = a then some v else s.held sq b := by
  simp [busWrite, store_held]
end busWrite

/-! ### `MemRmw` and `PllRmw` -/

section busRmw
variable (sp : Space) (a : Nat) (owned v keep : Word) (s : State)
@[simp] theorem busRmw_regs : (busRmw sp a owned v keep s).regs = s.regs := by simp [busRmw]
@[simp] theorem busRmw_reg (r : Reg) : (busRmw sp a owned v keep s).reg r = s.reg r := by
  simp [busRmw]
@[simp] theorem busRmw_pins : (busRmw sp a owned v keep s).pins = s.pins := by simp [busRmw]
@[simp] theorem busRmw_palettePri : (busRmw sp a owned v keep s).palettePri = s.palettePri := by
  simp [busRmw]
@[simp] theorem busRmw_paletteSec : (busRmw sp a owned v keep s).paletteSec = s.paletteSec := by
  simp [busRmw]
@[simp] theorem busRmw_trace :
    (busRmw sp a owned v keep s).trace =
      s.trace ++ [.rmw sp a v keep (s.readValue sp a owned)
        (rmwWord (s.readValue sp a owned) v keep)] := by
  simp [busRmw]
@[simp] theorem busRmw_host : (busRmw sp a owned v keep s).host = s.host := by simp [busRmw]
@[simp] theorem busRmw_hostSeen : (busRmw sp a owned v keep s).hostSeen = s.hostSeen := by
  simp [busRmw]
@[simp] theorem busRmw_readDraws : (busRmw sp a owned v keep s).readDraws = s.readDraws.tail := by
  simp [busRmw]
@[simp] theorem busRmw_pinDraws : (busRmw sp a owned v keep s).pinDraws = s.pinDraws := by
  simp [busRmw]
@[simp] theorem busRmw_drawn : (busRmw sp a owned v keep s).drawn = s.drawn + 1 := by simp [busRmw]
theorem busRmw_held (sq : Space) (b : Nat) :
    (busRmw sp a owned v keep s).held sq b =
      if sq = sp ∧ b = a then some (rmwWord (s.readValue sp a owned) v keep) else s.held sq b := by
  simp only [busRmw, log_held, store_held, afterRead_held]
  split_ifs <;> rfl
end busRmw

/-! ### The canonical form of the spaces -/

/-- Both spaces are in canonical form. -/
def spacesWf (s : State) : Prop := ∀ sp, Memory.wf (s.space sp) = true

theorem spacesWf_iff (s : State) :
    spacesWf s ↔ Memory.wf s.dr = true ∧ Memory.wf s.pr = true :=
  ⟨fun h => ⟨h .dr, h .pr⟩, fun h sp => by cases sp; exacts [h.1, h.2]⟩

theorem spacesWf_of_eq {s t : State} (hs : spacesWf s) (hd : t.dr = s.dr) (hp : t.pr = s.pr) :
    spacesWf t := by
  rw [spacesWf_iff] at *; rw [hd, hp]; exact hs

theorem spacesWf_store {s : State} (hs : spacesWf s) (sp : Space) (a : Nat) (v : Word) :
    spacesWf (s.store sp a v) := by
  intro sq
  rw [store_space]
  split_ifs
  · exact tableRising_tableSet _ _ (hs sp)
  · exact hs sq

theorem spacesWf_log {s : State} (hs : spacesWf s) (e : Event) : spacesWf (s.log e) :=
  spacesWf_of_eq hs rfl rfl

theorem spacesWf_afterRead {s : State} (hs : spacesWf s) (sp : Space) (a : Nat) :
    spacesWf (s.afterRead sp a) := by
  unfold State.afterRead
  split
  · exact spacesWf_of_eq hs rfl rfl
  · exact spacesWf_store (s := s.advanceRead) (spacesWf_of_eq hs rfl rfl) _ _ _

/-- A read keeps the canonical form. -/
theorem spacesWf_busRead {s : State} (hs : spacesWf s) (sp : Space) (a : Nat) (owned : Word) :
    spacesWf (busRead sp a owned s).2 := spacesWf_log (spacesWf_afterRead hs sp a) _

/-- A write keeps the canonical form. -/
theorem spacesWf_busWrite {s : State} (hs : spacesWf s) (sp : Space) (a : Nat) (v : Word) :
    spacesWf (busWrite sp a v s) := spacesWf_log (spacesWf_store hs sp a v) _

/-- A read-modify-write keeps the canonical form. -/
theorem spacesWf_busRmw {s : State} (hs : spacesWf s) (sp : Space) (a : Nat) (owned v keep : Word) :
    spacesWf (busRmw sp a owned v keep s) :=
  spacesWf_log (spacesWf_store (spacesWf_afterRead hs sp a) _ _ _) _

/-- The spaces of the machine right after reset are in canonical form. -/
theorem spacesWf_reset : spacesWf State.reset := by intro sp; cases sp <;> rfl

/-! ### The collaborators -/

/-- `Pin`: the answer is the draw; one event, one draw; a success adds one pin (20_memory.md R78). -/
theorem pinHandle_does (h : Word) (s : State) :
    pinHandle h s = (s.nextPin,
      { s.advancePin.log (.pin h s.nextPin) with
        pins := match s.nextPin with
          | .ok _ _ => pinsAdd h.toNat s.pins
          | .fail => s.pins }) := by
  unfold pinHandle
  cases s.nextPin <;> rfl

/-- The outstanding pins of every handle after `Unpin` (20_memory.md R79). -/
theorem unpinHandle_pinCount (h g : Word) (s : State) :
    (unpinHandle h s).pinCount g = s.pinCount g - if g = h then 1 else 0 := by
  have := pinsRemove_get h.toNat g.toNat s.pins
  simpa [unpinHandle, State.pinCount, State.log, BitVec.toNat_inj] using this

/-- `Unpin` changes the pins and the trace and nothing else. -/
theorem unpinHandle_does (h : Word) (s : State) :
    unpinHandle h s =
      { s with pins := pinsRemove h.toNat s.pins, trace := s.trace ++ [.unpin h] } := rfl

/-- `PaletteReload`: one event, counted for its controller (20_memory.md R81). -/
theorem paletteReload_paletteCount (c d : Ctrl) (s : State) :
    (paletteReload c s).paletteCount d = s.paletteCount d + if d = c then 1 else 0 := by
  cases c <;> cases d <;> rfl

section paletteReload
variable (c : Ctrl) (s : State)
@[simp] theorem paletteReload_regs : (paletteReload c s).regs = s.regs := by cases c <;> rfl
@[simp] theorem paletteReload_reg (r : Reg) : (paletteReload c s).reg r = s.reg r := by
  cases c <;> rfl
@[simp] theorem paletteReload_dr : (paletteReload c s).dr = s.dr := by cases c <;> rfl
@[simp] theorem paletteReload_pr : (paletteReload c s).pr = s.pr := by cases c <;> rfl
@[simp] theorem paletteReload_held (sp : Space) (a : Nat) :
    (paletteReload c s).held sp a = s.held sp a := by cases c <;> cases sp <;> rfl
@[simp] theorem paletteReload_pins : (paletteReload c s).pins = s.pins := by cases c <;> rfl
@[simp] theorem paletteReload_trace : (paletteReload c s).trace = s.trace ++ [.palette c] := by
  cases c <;> rfl
@[simp] theorem paletteReload_host : (paletteReload c s).host = s.host := by cases c <;> rfl
@[simp] theorem paletteReload_hostSeen : (paletteReload c s).hostSeen = s.hostSeen := by cases c <;> rfl
@[simp] theorem paletteReload_readDraws : (paletteReload c s).readDraws = s.readDraws := by
  cases c <;> rfl
@[simp] theorem paletteReload_pinDraws : (paletteReload c s).pinDraws = s.pinDraws := by
  cases c <;> rfl
@[simp] theorem paletteReload_drawn : (paletteReload c s).drawn = s.drawn := by cases c <;> rfl
end paletteReload

/-! ### Errors, the phase and the frame -/

/-- `raise` sets one flag of STATUS and nothing else (60_exceptions.md R271). -/
theorem raise_does (flag : Nat) (s : State) :
    raise flag s = s.setReg .status (s.reg .status ||| bitWord flag) := rfl

/-- What the registers hold after a command: STATUS and PHASE as the epilogue leaves them, the others as
the body left them (30_encoding.md R91). -/
theorem frame_reg (body : State → State) (s : State) (r : Reg) :
    (frame body s).reg r =
      if r = .status then statusAtEnd ((body (prologue s)).reg .status)
      else if r = .phase then 0 else (body (prologue s)).reg r := by
  simp only [frame, epilogue, reg_setReg]
  by_cases h1 : r = .status
  · subst h1; simp
  · by_cases h2 : r = .phase
    · subst h2; simp
    · simp [h1, h2, Ne.symm h1, Ne.symm h2]

/-- What a register holds when the body of a command starts: STATUS is 1, the others as before. -/
theorem prologue_reg (s : State) (r : Reg) :
    (prologue s).reg r = if r = .status then 1#32 else s.reg r := by
  unfold prologue
  rw [reg_setReg]
  by_cases h : r = .status
  · subst h; rfl
  · simp [h, Ne.symm h]

section frame
variable (body : State → State) (s : State)
@[simp] theorem frame_dr : (frame body s).dr = (body (prologue s)).dr := rfl
@[simp] theorem frame_pr : (frame body s).pr = (body (prologue s)).pr := rfl
@[simp] theorem frame_held (sp : Space) (a : Nat) :
    (frame body s).held sp a = (body (prologue s)).held sp a := by cases sp <;> rfl
@[simp] theorem frame_pins : (frame body s).pins = (body (prologue s)).pins := rfl
@[simp] theorem frame_palettePri : (frame body s).palettePri = (body (prologue s)).palettePri := rfl
@[simp] theorem frame_paletteSec : (frame body s).paletteSec = (body (prologue s)).paletteSec := rfl
@[simp] theorem frame_trace : (frame body s).trace = (body (prologue s)).trace := rfl
@[simp] theorem frame_host : (frame body s).host = (body (prologue s)).host := rfl
@[simp] theorem frame_hostSeen : (frame body s).hostSeen = (body (prologue s)).hostSeen := rfl
@[simp] theorem frame_readDraws : (frame body s).readDraws = (body (prologue s)).readDraws := rfl
@[simp] theorem frame_pinDraws : (frame body s).pinDraws = (body (prologue s)).pinDraws := rfl
@[simp] theorem frame_drawn : (frame body s).drawn = (body (prologue s)).drawn := rfl
end frame

section prologue
variable (s : State)
@[simp] theorem prologue_dr : (prologue s).dr = s.dr := rfl
@[simp] theorem prologue_pr : (prologue s).pr = s.pr := rfl
@[simp] theorem prologue_held (sp : Space) (a : Nat) : (prologue s).held sp a = s.held sp a := by
  cases sp <;> rfl
@[simp] theorem prologue_pins : (prologue s).pins = s.pins := rfl
@[simp] theorem prologue_palettePri : (prologue s).palettePri = s.palettePri := rfl
@[simp] theorem prologue_paletteSec : (prologue s).paletteSec = s.paletteSec := rfl
@[simp] theorem prologue_trace : (prologue s).trace = s.trace := rfl
@[simp] theorem prologue_host : (prologue s).host = s.host := rfl
@[simp] theorem prologue_hostSeen : (prologue s).hostSeen = s.hostSeen := rfl
@[simp] theorem prologue_readDraws : (prologue s).readDraws = s.readDraws := rfl
@[simp] theorem prologue_pinDraws : (prologue s).pinDraws = s.pinDraws := rfl
@[simp] theorem prologue_drawn : (prologue s).drawn = s.drawn := rfl
@[simp] theorem prologue_nextRead : (prologue s).nextRead = s.nextRead := rfl
@[simp] theorem prologue_nextPin : (prologue s).nextPin = s.nextPin := rfl
end prologue

end Sys2Proof.Laws
end

