-- ==== Sys2Proof/WellFormed.lean ====
section
/-! DEFINITION. What is well-formed: a command word's fields (30_encoding.md R93, R97, R98), an
instruction, a display mode (10_state.md R27), a PLL descriptor (70_reset_and_hazards.md R306 (2),
41_pll_solver.md R121), and a configuration (20_memory.md R71, 43_scaler.md R150, 45_atomic_update.md
R202). Each check has its own name; Sys2Proof/Tests/Slice0.lean has an ill-formed term for each. -/

namespace Sys2Proof

/-- The number of a controller: the bit C of a command word (30_encoding.md R93). -/
def Ctrl.num : Ctrl → Nat
  | .primary => 0
  | .secondary => 1

/-- OPC is one of 0x01 to 0x0C (30_encoding.md R97, R98). -/
def RawCmd.opcOk (r : RawCmd) : Bool := 1 ≤ r.opc.toNat && r.opc.toNat ≤ 12

/-- The bits 31:11 are 0 (30_encoding.md R93, R98). -/
def RawCmd.zeroOk (r : RawCmd) : Bool := r.zero == 0

/-- C is 0 on the commands that take no controller, GAINCLS and SCALCOMP (30_encoding.md R98). -/
def RawCmd.cOk (r : RawCmd) : Bool := !(r.opc.toNat == 2 || r.opc.toNat == 3) || r.c == 0

/-- ARG is 0 on a command whose ARG column says 0, and ARG[1] is 0 on TIMPACK (30_encoding.md R98). -/
def RawCmd.argOk (r : RawCmd) : Bool :=
  if r.opc.toNat == 6 then true
  else if r.opc.toNat == 4 then r.arg.toNat < 2
  else r.arg == 0

/-- The fields of a legal command word (30_encoding.md R98). -/
def RawCmd.wf (r : RawCmd) : Bool := r.opcOk && r.zeroOk && r.cOk && r.argOk

/-- The number of a TIMPACK variant, ARG[0] (30_encoding.md R97). -/
def Variant.num : Variant → Nat
  | .std => 0
  | .center => 1

/-- The number of a DPMS level, ARG (30_encoding.md R97). -/
def Level.num : Level → Nat
  | .on => 0
  | .standby => 1
  | .suspend => 2
  | .off => 3

/-- The fields of an instruction's command word (30_encoding.md R97). -/
def Instr.raw : Instr → RawCmd
  | .pllsolve c => ⟨1, BitVec.ofNat 1 c.num, 0, 0⟩
  | .gaincls => ⟨2, 0, 0, 0⟩
  | .scalcomp => ⟨3, 0, 0, 0⟩
  | .timpack c v => ⟨4, BitVec.ofNat 1 c.num, BitVec.ofNat 2 v.num, 0⟩
  | .pllcommit c => ⟨5, BitVec.ofNat 1 c.num, 0, 0⟩
  | .dpmsset c l => ⟨6, BitVec.ofNat 1 c.num, BitVec.ofNat 2 l.num, 0⟩
  | .modeset c => ⟨7, BitVec.ofNat 1 c.num, 0, 0⟩
  | .setbase c => ⟨8, BitVec.ofNat 1 c.num, 0, 0⟩
  | .timprog c => ⟨9, BitVec.ofNat 1 c.num, 0, 0⟩
  | .pllprog c => ⟨10, BitVec.ofNat 1 c.num, 0, 0⟩
  | .bwnotify c => ⟨11, BitVec.ofNat 1 c.num, 0, 0⟩
  | .scalprog c => ⟨12, BitVec.ofNat 1 c.num, 0, 0⟩

/-- An instruction is well-formed when its word's fields are legal. The types of the operands admit
exactly the values the encoding admits, so this holds of every term of `Instr`
(`Sys2Proof.Laws.instr_wf`); the ill-formed words are terms of `RawCmd`. -/
def Instr.wf (i : Instr) : Bool := i.raw.wf

/-- 10_state.md R27 (a): the horizontal active and total widths. -/
def DisplayMode.wfHorizontal (m : DisplayMode) : Bool :=
  8 ≤ m.hdisplay && m.hdisplay ≤ 4103 && 8 ≤ m.htotal && m.htotal ≤ 8199

/-- 10_state.md R27 (b): the horizontal sync. -/
def DisplayMode.wfHsync (m : DisplayMode) : Bool :=
  8 ≤ m.hsyncStart && m.hsyncStart ≤ 8199 && m.hsyncStart ≤ m.hsyncEnd &&
    (m.hsyncEnd - m.hsyncStart) / 8 ≤ 63

/-- 10_state.md R27 (c): the vertical active and total heights. -/
def DisplayMode.wfVertical (m : DisplayMode) : Bool :=
  1 ≤ m.vdisplay && m.vdisplay ≤ 65536 && 1 ≤ m.vtotal && m.vtotal ≤ 65536

/-- 10_state.md R27 (d): the vertical sync. -/
def DisplayMode.wfVsync (m : DisplayMode) : Bool :=
  1 ≤ m.vsyncStart && m.vsyncStart ≤ 4096 && m.vsyncStart ≤ m.vsyncEnd &&
    m.vsyncEnd - m.vsyncStart ≤ 31

/-- 10_state.md R27 (e): the blanking, read by the center variant. -/
def DisplayMode.wfBlank (m : DisplayMode) : Bool :=
  m.hblankStart ≤ m.hblankEnd && m.hblankStart ≤ m.hsyncStart &&
    (m.hsyncStart - m.hblankStart) / 8 ≤ 8191 && m.vblankStart ≤ m.vblankEnd &&
    m.vblankEnd - m.vblankStart ≤ 65535 && m.vblankStart ≤ m.vsyncStart &&
    m.vsyncStart - m.vblankStart ≤ 4095

/-- 10_state.md R27 (f): the pixel clock is positive. -/
def DisplayMode.wfClock (m : DisplayMode) : Bool := 0 < m.clock

/-- A mode well-formed for the standard variant: 10_state.md R27 (a) to (d) and (f). No command
refuses a mode that is not (R26): the rules are total. -/
def DisplayMode.wfStd (m : DisplayMode) : Bool :=
  m.wfHorizontal && m.wfHsync && m.wfVertical && m.wfVsync && m.wfClock

/-- A well-formed mode, for the center variant too (10_state.md R27). -/
def DisplayMode.wf (m : DisplayMode) : Bool := m.wfStd && m.wfBlank

/-- A well-formed descriptor (70_reset_and_hazards.md R306 (2), 41_pll_solver.md R121). -/
def PllDescriptor.wf (d : PllDescriptor) : Bool :=
  0 < d.refFreq && 1 ≤ d.maxRef && d.maxRef ≤ 1023 &&
    1 ≤ d.minFb && d.minFb ≤ d.maxFb && d.maxFb ≤ 2047

/-- The display registers that exist, by block (10_state.md R40): 7 + 9 of the primary, 7 of the
secondary. -/
def DReg.existing : List (Ctrl × DReg) :=
  [(.primary, .ctl), (.primary, .hTotalDisp), (.primary, .hSyncStrtWid), (.primary, .vTotalDisp),
   (.primary, .vSyncStrtWid), (.primary, .fbOffset), (.primary, .fbPitchw),
   (.primary, .horzStretch), (.primary, .vertStretch), (.primary, .centerCntl),
   (.primary, .ptHTotalDisp), (.primary, .ptHSyncStrtWid), (.primary, .ptVTotalDisp),
   (.primary, .ptVSyncStrtWid), (.primary, .activeH), (.primary, .activeV),
   (.secondary, .ctl), (.secondary, .hTotalDisp), (.secondary, .hSyncStrtWid),
   (.secondary, .vTotalDisp), (.secondary, .vSyncStrtWid), (.secondary, .fbOffset),
   (.secondary, .fbPitchw)]

/-- The PLL registers of the two clock units (20_memory.md R72). -/
def PReg.existing : List (Ctrl × PReg) :=
  [(.primary, .pllRefDiv), (.primary, .pllFbPost), (.primary, .pllCntl), (.primary, .clkSel),
   (.secondary, .pllRefDiv), (.secondary, .pllFbPost), (.secondary, .pllCntl), (.secondary, .clkSel)]

/-- The word addresses of the display registers that exist (20_memory.md R71). -/
def Config.drAddrs (k : Config) : List Nat := DReg.existing.map fun p => k.drBase p.1 + k.drOffset p.2

/-- The indices of the PLL registers (20_memory.md R72). -/
def Config.prAddrs (k : Config) : List Nat := PReg.existing.map fun p => k.prBase p.1 + k.prOffset p.2

/-- "with the constraint that all 23 addresses are distinct" (20_memory.md R71). -/
def Config.wfDrAddrs (k : Config) : Bool := decide k.drAddrs.Nodup

/-- The eight PLL indices are distinct (20_memory.md R72). -/
def Config.wfPrAddrs (k : Config) : Bool := decide k.prAddrs.Nodup

/-- "a configuration with RATIO_MAX ≥ 8192 would not fit and is not allowed" (43_scaler.md R150). -/
def Config.wfRatio (k : Config) : Bool :=
  0 < k.ratioMaxH && k.ratioMaxH < 8192 && 0 < k.ratioMaxV && k.ratioMaxV < 8192

/-- A wait makes at least one read (45_atomic_update.md R202). -/
def Config.wfWait (k : Config) : Bool := 1 ≤ k.waitBound

/-- The gain bands rise: the gain classifier is monotonic (42_gain_classifier.md R132, R134). -/
def Config.wfGain (k : Config) : Bool :=
  k.gainMin ≤ k.gainMid && k.gainMid ≤ k.gainHi && k.gainMidMHz ≤ k.gainHiMHz

/-- Every entry of `POST_DIVS` is positive and has a code (41_pll_solver.md R111, R118). -/
def Config.wfPost (k : Config) : Bool :=
  k.postDivs.all (0 < ·) && k.postCodes.length == k.postDivs.length && !k.postDivs.isEmpty

/-- A well-formed configuration. -/
def Config.wf (k : Config) : Bool :=
  k.wfDrAddrs && k.wfPrAddrs && k.wfRatio && k.wfWait && k.wfGain && k.wfPost

end Sys2Proof
end

