-- ==== Sys2Proof/Laws/Params.lean ====
section
/-! SUPPORT. The numbers that the default configuration gives the shared operations: addresses, masks and
hardware-owned bits (20_memory.md R71, R72, 10_state.md R41 to R55). -/

namespace Sys2Proof.Laws

open Sys2Proof.Machine

/-- Every instruction's fields are legal (30_encoding.md R97, R98). -/
theorem instr_wf (i : Instr) : i.wf = true := by
  cases i with
  | gaincls => decide
  | scalcomp => decide
  | timpack c v => cases c <;> cases v <;> decide
  | dpmsset c l => cases c <;> cases l <;> decide
  | _ c => cases c <;> decide

/-- The default configuration is well-formed. -/
theorem msc1_wf : msc1.wf = true := by decide

/-! ### Addresses -/

/-- The word address of a display register: the block's base plus the register's offset. -/
theorem drAddr_msc1 (c : Ctrl) (r : DReg) :
    drAddr msc1 c r = (match c with | .primary => 0 | .secondary => 0x40) + drOffsetDefault r := by
  cases c <;> rfl

/-- The index of a PLL register. -/
theorem prAddr_msc1 (c : Ctrl) (r : PReg) :
    prAddr msc1 c r = (match c with | .primary => 0 | .secondary => 0x10) + prOffsetDefault r := by
  cases c <;> rfl

/-! ### Masks -/

@[simp] theorem bitWord_zero : bitWord 0 = 0x00000001#32 := rfl
theorem fieldMask_refDiv : fieldMask msc1.refDiv = 0x000003FF#32 := by decide
theorem fbPostBits_msc1 : fbPostBits msc1 = 0x00077FFF#32 := by decide
theorem fieldMask_gain : fieldMask msc1.gain = 0x00003800#32 := by decide
theorem bitWord_atomicUpdateW : bitWord msc1.atomicUpdateW = 0x00008000#32 := by decide
theorem bitWord_srcSel : bitWord msc1.srcSel = 0x00000001#32 := by decide
theorem bitWord_auxCrtOn : bitWord msc1.auxCrtOn = 0x00000100#32 := by decide
theorem bitWord_stretchAutoInc : bitWord msc1.stretchAutoInc = 0x00008000#32 := by decide
theorem centerBits_msc1 : centerBits msc1 = 0x00000003#32 := by decide
theorem disableBits_msc1 : disableBits msc1 = 0x00000070#32 := by decide
theorem dpmsBits_primary : dpmsBits msc1 .primary = 0x00000073#32 := by decide
theorem dpmsBits_secondary : dpmsBits msc1 .secondary = 0x00000070#32 := by decide

/-! ### Hardware-owned bits -/

theorem drOwned_ctl_primary : drOwned msc1 .primary .ctl = 0xFFFFFF8C#32 := by decide
theorem drOwned_ctl_secondary : drOwned msc1 .secondary .ctl = 0xFFFFFF8E#32 := by decide
theorem drOwned_horzStretch (c : Ctrl) : drOwned msc1 c .horzStretch = 0x00008000#32 := by
  cases c <;> decide
theorem drOwned_vertStretch (c : Ctrl) : drOwned msc1 c .vertStretch = 0x00008000#32 := by
  cases c <;> decide
theorem drOwned_centerCntl (c : Ctrl) : drOwned msc1 c .centerCntl = 0xFFFFFFFC#32 := by
  cases c <;> decide
theorem prOwned_pllRefDiv : prOwned msc1 .pllRefDiv = 0xFFFF7C00#32 := by decide
theorem prOwned_pllFbPost : prOwned msc1 .pllFbPost = 0xFFF88000#32 := by decide
theorem prOwned_pllCntl : prOwned msc1 .pllCntl = 0xFFFFC7FF#32 := by decide
theorem prOwned_clkSel : prOwned msc1 .clkSel = 0xFFFFFFFE#32 := by decide

end Sys2Proof.Laws
end

