-- ==== Sys2Proof/Laws/Ran.lean ====
section
/-! SUPPORT. One summary for every run of register and bus operations: the core registers it may change,
the display and PLL registers it may change, how many reads drew, and the events it added. The
operations each have a summary, and summaries compose. -/

namespace Sys2Proof.Laws

open Sys2Proof.Machine Sys2Proof.Safety

/-- A run that changes no core register but `rs`, no display or PLL register but `ws`, no pin and no
palette count; that makes n reads; and that adds the events `es`. -/
def Ran (rs : List Reg) (ws : List (Space × Nat)) (n : Nat) (es : List Event) (s t : State) : Prop :=
  RegsKept rs s t ∧ HeldKept ws s t ∧ NoCollab s t ∧ HostKept s t ∧ Drew n 0 s t ∧
    t.trace = s.trace ++ es

theorem ran_refl (s : State) : Ran [] [] 0 [] s s :=
  ⟨fun _ _ => rfl, fun _ _ _ => rfl, ⟨rfl, rfl, rfl⟩, ⟨rfl, rfl⟩, by simp [Drew], by simp⟩

/-- Runs compose. -/
theorem ran_trans {rs rs' : List Reg} {ws ws' : List (Space × Nat)} {m n : Nat} {es es' : List Event}
    {s t u : State} (h : Ran rs ws m es s t) (h' : Ran rs' ws' n es' t u) :
    Ran (rs ++ rs') (ws ++ ws') (m + n) (es ++ es') s u := by
  obtain ⟨a1, a2, ⟨a3, a4, a5⟩, ⟨a6, a7⟩, ⟨a8, a9, a10⟩, a11⟩ := h
  obtain ⟨b1, b2, ⟨b3, b4, b5⟩, ⟨b6, b7⟩, ⟨b8, b9, b10⟩, b11⟩ := h'
  refine ⟨fun r h => ?_, fun sp a h => ?_, ⟨b3.trans a3, b4.trans a4, b5.trans a5⟩,
    ⟨b6.trans a6, b7.trans a7⟩, ⟨?_, ?_, ?_⟩, ?_⟩
  · simp only [List.mem_append, not_or] at h
    exact (b1 r h.2).trans (a1 r h.1)
  · simp only [List.mem_append, not_or] at h
    exact (b2 sp a h.2).trans (a2 sp a h.1)
  · rw [b8, a8, List.drop_drop]
  · rw [b9, a9]; simp
  · rw [b10, a10]; omega
  · rw [b11, a11, List.append_assoc]

/-- A summary may be widened. -/
theorem ran_mono {rs rs' : List Reg} {ws ws' : List (Space × Nat)} {m n : Nat} {es es' : List Event}
    {s t : State} (h : Ran rs ws m es s t) (hr : rs ⊆ rs') (hw : ws ⊆ ws') (hn : m = n) (he : es = es') :
    Ran rs' ws' n es' s t := by
  subst hn he
  exact ⟨fun r hr' => h.1 r (fun x => hr' (hr x)), fun sp a ha => h.2.1 sp a (fun x => ha (hw x)), h.2.2⟩

theorem ran_setReg (s : State) (r : Reg) (v : Word) : Ran [r] [] 0 [] s (s.setReg r v) :=
  ⟨fun q hq => reg_setReg_ne _ _ (by rintro rfl; simp at hq), fun _ _ _ => by simp, by simp [NoCollab],
    by simp [HostKept], by simp [Drew], by simp⟩

theorem ran_setRegNat (s : State) (r : Reg) (v : Nat) : Ran [r] [] 0 [] s (s.setRegNat r v) :=
  ran_setReg _ _ _

theorem ran_setStep (n : Nat) (s : State) : Ran [.phase] [] 0 [] s (setStep n s) := ran_setReg _ _ _

theorem ran_setProtocolStep (n : Nat) (s : State) : Ran [.phase] [] 0 [] s (setProtocolStep n s) :=
  ran_setReg _ _ _

theorem ran_raise (flag : Nat) (s : State) : Ran [.status] [] 0 [] s (raise flag s) := ran_setReg _ _ _

theorem ran_busRead (sp : Space) (a : Nat) (owned : Word) (s : State) :
    Ran [] [(sp, a)] 1 [.rd sp a (s.readValue sp a owned)] s (busRead sp a owned s).2 := by
  refine ⟨fun r _ => by simp, fun sq b hb => ?_, by simp [NoCollab], by simp [HostKept],
    by simp [Drew], by simp⟩
  rw [busRead_held, if_neg]
  rintro ⟨rfl, rfl⟩
  simp at hb

theorem ran_busWrite (sp : Space) (a : Nat) (v : Word) (s : State) :
    Ran [] [(sp, a)] 0 [.wr sp a v] s (busWrite sp a v s) := by
  refine ⟨fun r _ => by simp, fun sq b hb => ?_, by simp [NoCollab], by simp [HostKept],
    by simp [Drew], by simp⟩
  rw [busWrite_held, if_neg]
  rintro ⟨rfl, rfl⟩
  simp at hb

theorem ran_busRmw (sp : Space) (a : Nat) (owned v keep : Word) (s : State) :
    Ran [] [(sp, a)] 1 [.rmw sp a v keep (s.readValue sp a owned)
      (rmwWord (s.readValue sp a owned) v keep)] s (busRmw sp a owned v keep s) := by
  refine ⟨fun r _ => by simp, fun sq b hb => ?_, by simp [NoCollab], by simp [HostKept],
    by simp [Drew], by simp⟩
  rw [busRmw_held, if_neg]
  rintro ⟨rfl, rfl⟩
  simp at hb

theorem ran_delayMs (ms : Nat) (s : State) : Ran [] [] 0 [.delay ms] s (delayMs ms s) :=
  ⟨fun _ _ => rfl, fun _ _ _ => by simp [delayMs], ⟨rfl, rfl, rfl⟩, ⟨rfl, rfl⟩,
    by simp [Drew, delayMs], rfl⟩

theorem ran_bwNotifyCall (c : Ctrl) (clock : Word) (s : State) :
    Ran [] [] 0 [.bw c clock] s (bwNotifyCall c clock s) :=
  ⟨fun _ _ => rfl, fun _ _ _ => by simp [bwNotifyCall], ⟨rfl, rfl, rfl⟩, ⟨rfl, rfl⟩,
    by simp [Drew, bwNotifyCall], rfl⟩

/-- A command is its body between the prologue and the epilogue: STATUS and PHASE besides what the body
does. -/
theorem ran_frame {rs : List Reg} {ws : List (Space × Nat)} {n : Nat} {es : List Event}
    {body : State → State} {s : State} (h : Ran rs ws n es (prologue s) (body (prologue s))) :
    Ran (rs ++ [.status, .phase]) ws n es s (frame body s) := by
  obtain ⟨a1, a2, ⟨a3, a4, a5⟩, ⟨a6, a7⟩, ⟨a8, a9, a10⟩, a11⟩ := h
  refine ⟨fun r h => ?_, fun sp a h => ?_, ⟨?_, ?_, ?_⟩, ⟨?_, ?_⟩, ⟨?_, ?_, ?_⟩, ?_⟩
  · simp only [List.mem_append, List.mem_cons, List.not_mem_nil, or_false, not_or] at h
    rw [frame_reg, if_neg h.2.1, if_neg h.2.2, a1 r h.1, prologue_reg, if_neg h.2.1]
  · rw [frame_held, a2 sp a h, prologue_held]
  · rw [frame_pins, a3]; rfl
  · rw [frame_palettePri, a4]; rfl
  · rw [frame_paletteSec, a5]; rfl
  · rw [frame_host, a6]; rfl
  · rw [frame_hostSeen, a7]; rfl
  · rw [frame_readDraws, a8]; rfl
  · rw [frame_pinDraws, a9]; rfl
  · rw [frame_drawn, a10]; rfl
  · rw [frame_trace, a11]; rfl

/-! ### The words that reads present -/

/-- The draw that a machine makes next is the draw of as many reads later of the machine it came from. -/
theorem nextRead_of_drew {n : Nat} {s t : State} (h : Drew n 0 s t) : t.nextRead = drawAt s n := by
  simp [State.nextRead, drawAt, h.1, h.2.2]

theorem drawAt_zero (s : State) : drawAt s 0 = s.nextRead := rfl

/-- The draws of a later machine. -/
theorem drawAt_of_drew {m : Nat} {s t : State} (h : Drew m 0 s t) (n : Nat) :
    drawAt t n = drawAt s (m + n) := by
  simp [drawAt, h.1, h.2.2, List.drop_drop, Nat.add_assoc]

/-- What a register that nothing touched meanwhile holds once read. -/
theorem heldAt_of_drew {m : Nat} {s t : State} (h : Drew m 0 s t) {sp : Space} {a : Nat}
    (hh : t.held sp a = s.held sp a) (n : Nat) : heldAt t sp a n = heldAt s sp a (m + n) := by
  simp [heldAt, hh, drawAt_of_drew h]

/-- The word that a read of a register nothing touched meanwhile presents. -/
theorem readAt_of_drew {m : Nat} {s t : State} (h : Drew m 0 s t) {sp : Space} {a : Nat}
    (hh : t.held sp a = s.held sp a) (owned : Word) (n : Nat) :
    readAt t sp a owned n = readAt s sp a owned (m + n) := by
  simp [readAt, heldAt_of_drew h hh, drawAt_of_drew h]

/-- A word whose held and drawn parts are the same is presented whole. -/
theorem presented_self (owned w : Word) : presented owned w w = w := by
  apply BitVec.eq_of_getLsbD_eq
  intro i hi
  simp only [presented, BitVec.getLsbD_or, BitVec.getLsbD_and, BitVec.getLsbD_not]
  cases owned.getLsbD i <;> simp [hi]

/-- Every read presents the word of 20_memory.md R76. -/
theorem readValue_eq_readAt (s : State) (sp : Space) (a : Nat) (owned : Word) :
    s.readValue sp a owned = readAt s sp a owned 0 := by
  cases h : s.held sp a with
  | none => rw [readValue_none owned h]; simp [readAt, heldAt, h, drawAt_zero, presented_self]
  | some w => rw [readValue_some owned h]; simp [readAt, heldAt, h, drawAt_zero, presented]

/-- A read of a register that holds a value, after n reads. -/
theorem readValue_of_held {n : Nat} {s t : State} (hd : Drew n 0 s t) {sp : Space} {a : Nat} {w : Word}
    (owned : Word) (h : t.held sp a = some w) :
    t.readValue sp a owned = presented owned w (drawAt s n) := by
  rw [readValue_some owned h, nextRead_of_drew hd]; rfl

/-- A read of a register that nothing touched meanwhile, after n reads. -/
theorem readValue_of_drew {n : Nat} {s t : State} (hd : Drew n 0 s t) {sp : Space} {a : Nat}
    (owned : Word) (h : t.held sp a = s.held sp a) :
    t.readValue sp a owned = readAt s sp a owned n := by
  rw [readValue_eq_readAt, readAt_of_drew hd h, Nat.add_zero]

end Sys2Proof.Laws
end

