-- ==== Sys2Proof/Laws/Commit.lean ====
section
/-! SUPPORT. What the operations of the atomic update protocol do (45_atomic_update.md R202 to R206): the
busy-wait, the divider writes and the toggle. -/

namespace Sys2Proof.Laws

open Sys2Proof.Machine Sys2Proof.Safety

theorem prAddr_refDiv (c : Ctrl) : prAddr msc1 c .pllRefDiv = prBlock c := by cases c <;> rfl
theorem prAddr_fbPost (c : Ctrl) : prAddr msc1 c .pllFbPost = prBlock c + 1 := by cases c <;> rfl
theorem prAddr_cntl (c : Ctrl) : prAddr msc1 c .pllCntl = prBlock c + 2 := by cases c <;> rfl
theorem prAddr_clkSel (c : Ctrl) : prAddr msc1 c .clkSel = prBlock c + 3 := by cases c <;> rfl

/-- The words of a busy-wait that starts later. -/
theorem waitAnswers_of_drew {m n : Nat} {s t : State} {h : Word} {ws : List Word}
    (hd : Drew m 0 s t) (ha : WaitAnswers t n h ws) : WaitAnswers s (m + n) h ws := by
  intro k w hk
  rw [ha k w hk, drawAt_of_drew hd, Nat.add_assoc]

/-- The words of a busy-wait are a first one and those that follow it. -/
theorem waitAnswers_cons {s : State} {n : Nat} {h w : Word} {ws : List Word}
    (hw : w = presented 0xFFFF7C00#32 h (drawAt s n)) (ha : WaitAnswers s (n + 1) h ws) :
    WaitAnswers s n h (w :: ws) := by
  intro k v hk
  cases k with
  | zero => simp only [List.getElem?_cons_zero, Option.some.injEq] at hk; rw [← hk, hw, Nat.add_zero]
  | succ k =>
    rw [List.getElem?_cons_succ] at hk
    rw [ha k v hk, Nat.add_assoc, Nat.add_comm 1 k]

/-- One read of a busy-wait: the word presented, and what PLL_REF_DIV then holds (20_memory.md R76). -/
theorem waitRead_does (c : Ctrl) (s : State) :
    Ran [] [(.pr, prBlock c)] 1 (waitEvents c [readAt s .pr (prBlock c) 0xFFFF7C00#32 0]) s
      (pllRead msc1 c .pllRefDiv s).2 ∧
    (pllRead msc1 c .pllRefDiv s).1 = readAt s .pr (prBlock c) 0xFFFF7C00#32 0 ∧
    (pllRead msc1 c .pllRefDiv s).2.held .pr (prBlock c) = some (heldAt s .pr (prBlock c) 0) := by
  unfold pllRead
  rw [prAddr_refDiv, prOwned_pllRefDiv]
  refine ⟨?_, readValue_eq_readAt _ _ _ _, ?_⟩
  · have := ran_busRead .pr (prBlock c) 0xFFFF7C00#32 s
    rw [readValue_eq_readAt] at this
    exact this
  · rw [busRead_held, if_pos ⟨rfl, rfl⟩]; rfl

/-- The reads of a busy-wait (45_atomic_update.md R202): at least one, at most `more + 1`; all but the
last show UPDATE_PENDING; the last shows it clear or was the last permitted. Each presents what
PLL_REF_DIV holds and the bits drawn. -/
theorem waitReads_does (c : Ctrl) (more n : Nat) (s : State) :
    ∃ ws : List Word,
      (waitReads msc1 c more n s).1 = n + ws.length ∧ 1 ≤ ws.length ∧ ws.length ≤ more + 1 ∧
      (∀ w ∈ ws.dropLast, testBit w 31 = true) ∧
      (∀ w, ws.getLast? = some w → testBit w 31 = false ∨ ws.length = more + 1) ∧
      Ran [] [(.pr, prBlock c)] ws.length (waitEvents c ws) s (waitReads msc1 c more n s).2 ∧
      WaitAnswers s 0 (heldAt s .pr (prBlock c) 0) ws ∧
      (waitReads msc1 c more n s).2.held .pr (prBlock c) = some (heldAt s .pr (prBlock c) 0) := by
  induction more generalizing n s with
  | zero =>
    obtain ⟨hr, hv, hh⟩ := waitRead_does c s
    exact ⟨[_], rfl, by simp, by simp, by simp, by simp, hr,
      waitAnswers_cons rfl (by intro k w hk; simp at hk), hh⟩
  | succ more ih =>
    obtain ⟨hr, hv, hh⟩ := waitRead_does c s
    by_cases hp : testBit (pllRead msc1 c .pllRefDiv s).1 msc1.updatePending = true
    · obtain ⟨ws, h1, h2, h3, h4, h5, h6, h7, h8⟩ := ih (n + 1) (pllRead msc1 c .pllRefDiv s).2
      have hk : heldAt (pllRead msc1 c .pllRefDiv s).2 .pr (prBlock c) 0 =
          heldAt s .pr (prBlock c) 0 := by simp [heldAt, hh]
      rw [hk] at h7 h8
      have e : waitReads msc1 c (more + 1) n s =
          waitReads msc1 c more (n + 1) (pllRead msc1 c .pllRefDiv s).2 := by
        simp only [waitReads]; rw [if_pos hp]
      rw [e]
      refine ⟨readAt s .pr (prBlock c) 0xFFFF7C00#32 0 :: ws, ?_, by simp, by simp; omega, ?_, ?_, ?_,
        waitAnswers_cons rfl (waitAnswers_of_drew (m := 1) (n := 0) hr.2.2.2.2.1 h7), h8⟩
      · rw [h1]; simp; omega
      · intro w hw
        cases ws with
        | nil => simp at h2
        | cons x xs =>
          simp only [List.dropLast_cons_cons, List.mem_cons] at hw
          rcases hw with rfl | hw
          · rw [← hv]; exact hp
          · exact h4 w hw
      · intro w hw
        cases ws with
        | nil => simp at h2
        | cons x xs =>
          rw [List.getLast?_cons_cons] at hw
          rcases h5 w hw with h | h
          · exact .inl h
          · exact .inr (by simp at h ⊢; omega)
      · exact ran_mono (ran_trans hr h6) (by simp) (by simp) (by simp; omega) (by simp [waitEvents])
    · have e : waitReads msc1 c (more + 1) n s = (n + 1, (pllRead msc1 c .pllRefDiv s).2) := by
        simp only [waitReads]; rw [if_neg hp]
      rw [e]
      refine ⟨[_], rfl, by simp, by simp, by simp, ?_, hr,
        waitAnswers_cons rfl (by intro k w hk; simp at hk), hh⟩
      intro w hw
      simp only [List.getLast?_singleton, Option.some.injEq] at hw
      subst hw
      exact .inl (by rw [← hv]; simpa [msc1] using hp)

/-- `WaitPending` (45_atomic_update.md R202, R203): the reads, and WAITCNT. -/
theorem waitPending_does (c : Ctrl) (s : State) :
    ∃ ws : List Word, WaitShape ws ∧
      Ran [.waitcnt] [(.pr, prBlock c)] ws.length (waitEvents c ws) s (waitPending msc1 c s) ∧
      (waitPending msc1 c s).regNat .waitcnt = ws.length ∧
      WaitAnswers s 0 (heldAt s .pr (prBlock c) 0) ws ∧
      (waitPending msc1 c s).held .pr (prBlock c) = some (heldAt s .pr (prBlock c) 0) := by
  obtain ⟨ws, h1, h2, h3, h4, h5, h6, h7, h8⟩ := waitReads_does c (msc1.waitBound - 1) 0 s
  have e : waitPending msc1 c s =
      (waitReads msc1 c (msc1.waitBound - 1) 0 s).2.setRegNat .waitcnt ws.length := by
    simp [waitPending, h1]
  refine ⟨ws, ⟨h2, h3, h4, h5⟩, ?_, ?_, h7, by rw [e]; simpa using h8⟩
  · rw [e]
    exact ran_mono (ran_trans h6 (ran_setRegNat _ _ _)) (by simp) (by simp) rfl (by simp)
  · rw [e, State.regNat, reg_setRegNat, if_pos rfl, BitVec.toNat_ofNat]
    have : ws.length ≤ 10000 := h3
    omega

/-- A value in its field, written with the complement of the field's mask kept. -/
theorem rmwWord_field (f : Field) (v : Int) (old : Word) :
    rmwWord old (putField f v) (~~~fieldMask f) = (old &&& ~~~fieldMask f) ||| putField f v :=
  rmwWord_of_disjoint old (putField_and_not_mask f v)

/-- The three divider words and the keep masks (45_atomic_update.md R204). -/
theorem refDivWord (v : Nat) : putField msc1.refDiv v = BitVec.ofNat 32 (v % 1024) := by
  have := fieldAt_nat v (n := 10) (k := 0) (by norm_num)
  simpa [putField, msc1] using this

theorem gainWord (v : Nat) : putField msc1.gain v = BitVec.ofNat 32 (v % 8 * 2 ^ 11) := by
  have := fieldAt_nat v (n := 3) (k := 11) (by norm_num)
  simpa [putField, msc1] using this

theorem fbPostWord_toNat (fb frac pcode : Nat) :
    (fbPostWord msc1 fb frac pcode).toNat = fb % 2048 + frac % 16 * 2 ^ 11 + pcode % 8 * 2 ^ 16 := by
  have h1 := toNat_fieldAt_nat fb (n := 11) (k := 0) (by norm_num)
  have h2 := toNat_fieldAt_nat frac (n := 4) (k := 11) (by norm_num)
  have h3 := toNat_fieldAt_nat pcode (n := 3) (k := 16) (by norm_num)
  have b1 : fb % 2 ^ 11 < 2 ^ 11 := Nat.mod_lt _ (by norm_num)
  have b2 : frac % 2 ^ 4 < 2 ^ 4 := Nat.mod_lt _ (by norm_num)
  have e1 : (fieldAt fb 11 0 ||| fieldAt frac 4 11).toNat = fb % 2 ^ 11 + frac % 2 ^ 4 * 2 ^ 11 := by
    rw [toNat_or_above (k := 11) (m := frac % 2 ^ 4) (by rw [h1]; simp; omega) h2, h1, h2]; simp
  have e2 : (fieldAt fb 11 0 ||| fieldAt frac 4 11 ||| fieldAt pcode 3 16).toNat =
      fb % 2 ^ 11 + frac % 2 ^ 4 * 2 ^ 11 + pcode % 2 ^ 3 * 2 ^ 16 := by
    rw [toNat_or_above (k := 16) (m := pcode % 2 ^ 3) (by rw [e1]; omega) h3, e1, h3]
  simpa [fbPostWord, putField, msc1] using e2

theorem fbPostWord_eq (fb frac pcode : Nat) :
    fbPostWord msc1 fb frac pcode =
      BitVec.ofNat 32 (fb % 2048 + frac % 16 * 2 ^ 11 + pcode % 8 * 2 ^ 16) := by
  apply BitVec.eq_of_toNat_eq
  rw [fbPostWord_toNat, BitVec.toNat_ofNat]
  omega

theorem fbPostWord_disjoint (fb frac pcode : Nat) :
    fbPostWord msc1 fb frac pcode &&& ~~~fbPostBits msc1 = 0 := by
  have e : ∀ a b c x y z : Word, a &&& ~~~x = 0 → b &&& ~~~y = 0 → c &&& ~~~z = 0 →
      (a ||| b ||| c) &&& ~~~(x ||| y ||| z) = 0 := by
    intro a b c x y z h1 h2 h3
    apply BitVec.eq_of_getLsbD_eq
    intro i hi
    have g1 := congrArg (fun w : Word => w.getLsbD i) h1
    have g2 := congrArg (fun w : Word => w.getLsbD i) h2
    have g3 := congrArg (fun w : Word => w.getLsbD i) h3
    simp only [BitVec.getLsbD_and, BitVec.getLsbD_not, BitVec.getLsbD_or] at g1 g2 g3 ⊢
    cases hx : x.getLsbD i <;> cases hy : y.getLsbD i <;> cases hz : z.getLsbD i <;> simp_all
  exact e _ _ _ _ _ _ (putField_and_not_mask _ _) (putField_and_not_mask _ _)
    (putField_and_not_mask _ _)

/-- The registers of a state after a run that does not list them. -/
theorem ran_reg {rs : List Reg} {ws : List (Space × Nat)} {n : Nat} {es : List Event} {s t : State}
    (h : Ran rs ws n es s t) {r : Reg} (hr : r ∉ rs) : t.reg r = s.reg r := h.1 r hr

/-- `WriteDividers` (45_atomic_update.md R204): three read-modify-writes, each of the word its register
presents. -/
theorem writeDividers_does (c : Ctrl) (ref fb frac pcode gain : Nat) (s : State) :
    let o1 := readAt s .pr (prBlock c) 0xFFFF7C00#32 0
    let o2 := readAt s .pr (prBlock c + 1) 0xFFF88000#32 1
    let o3 := readAt s .pr (prBlock c + 2) 0xFFFFC7FF#32 2
    let v1 := BitVec.ofNat 32 (ref % 1024)
    let v2 := BitVec.ofNat 32 (fb % 2048 + frac % 16 * 2 ^ 11 + pcode % 8 * 2 ^ 16)
    let v3 := BitVec.ofNat 32 (gain % 8 * 2 ^ 11)
    let t := writeDividers msc1 c ref fb frac pcode gain s
    Ran [] [(.pr, prBlock c), (.pr, prBlock c + 1), (.pr, prBlock c + 2)] 3
      [rmwEvent .pr (prBlock c) v1 0xFFFFFC00#32 o1, rmwEvent .pr (prBlock c + 1) v2 0xFFF88000#32 o2,
       rmwEvent .pr (prBlock c + 2) v3 0xFFFFC7FF#32 o3] s t ∧
    t.held .pr (prBlock c) = some ((o1 &&& 0xFFFFFC00#32) ||| v1) ∧
    t.held .pr (prBlock c + 1) = some ((o2 &&& 0xFFF88000#32) ||| v2) ∧
    t.held .pr (prBlock c + 2) = some ((o3 &&& 0xFFFFC7FF#32) ||| v3) := by
  intro o1 o2 o3 v1 v2 v3 t
  have k1 : ~~~fieldMask msc1.refDiv = 0xFFFFFC00#32 := by decide
  have k2 : ~~~fbPostBits msc1 = 0xFFF88000#32 := by decide
  have k3 : ~~~fieldMask msc1.gain = 0xFFFFC7FF#32 := by decide
  have w1 : rmwWord o1 v1 0xFFFFFC00#32 = (o1 &&& 0xFFFFFC00#32) ||| v1 := by
    have := rmwWord_field msc1.refDiv ref o1
    rwa [k1, refDivWord] at this
  have w2 : rmwWord o2 v2 0xFFF88000#32 = (o2 &&& 0xFFF88000#32) ||| v2 := by
    have := rmwWord_of_disjoint o2 (fbPostWord_disjoint fb frac pcode)
    rwa [k2, fbPostWord_eq] at this
  have w3 : rmwWord o3 v3 0xFFFFC7FF#32 = (o3 &&& 0xFFFFC7FF#32) ||| v3 := by
    have := rmwWord_field msc1.gain gain o3
    rwa [k3, gainWord] at this
  let s1 := busRmw .pr (prBlock c) 0xFFFF7C00#32 v1 0xFFFFFC00#32 s
  let s2 := busRmw .pr (prBlock c + 1) 0xFFF88000#32 v2 0xFFF88000#32 s1
  have ht : t = busRmw .pr (prBlock c + 2) 0xFFFFC7FF#32 v3 0xFFFFC7FF#32 s2 := by
    simp only [t, writeDividers, pllRmw, prAddr_refDiv, prAddr_fbPost, prAddr_cntl, prOwned_pllRefDiv,
      prOwned_pllFbPost, prOwned_pllCntl, k1, k2, k3, refDivWord, gainWord, fbPostWord_eq]
    rfl
  have r1 := ran_busRmw .pr (prBlock c) 0xFFFF7C00#32 v1 0xFFFFFC00#32 s
  have r2 := ran_busRmw .pr (prBlock c + 1) 0xFFF88000#32 v2 0xFFF88000#32 s1
  have r3 := ran_busRmw .pr (prBlock c + 2) 0xFFFFC7FF#32 v3 0xFFFFC7FF#32 s2
  have e1 : s.readValue .pr (prBlock c) 0xFFFF7C00#32 = o1 := readValue_eq_readAt _ _ _ _
  have e2 : s1.readValue .pr (prBlock c + 1) 0xFFF88000#32 = o2 :=
    readValue_of_drew r1.2.2.2.2.1 _ (r1.2.1 _ _ (by simp))
  have e3 : s2.readValue .pr (prBlock c + 2) 0xFFFFC7FF#32 = o3 :=
    readValue_of_drew (ran_trans r1 r2).2.2.2.2.1 _ ((ran_trans r1 r2).2.1 _ _ (by simp))
  rw [e1, w1] at r1
  rw [e2, w2] at r2
  rw [e3, w3] at r3
  rw [ht]
  refine ⟨ran_trans (ran_trans r1 r2) r3, ?_, ?_, ?_⟩
  · rw [busRmw_held, if_neg (by simp), busRmw_held, if_neg (by simp), busRmw_held, if_pos ⟨rfl, rfl⟩,
      e1, w1]
  · rw [busRmw_held, if_neg (by simp), busRmw_held, if_pos ⟨rfl, rfl⟩, e2, w2]
  · rw [busRmw_held, if_pos ⟨rfl, rfl⟩, e3, w3]

/-- `ToggleAtomic` (45_atomic_update.md R205) when PLL_REF_DIV holds w: the set, then the clear. -/
theorem toggleAtomic_does (c : Ctrl) {s : State} {w : Word} (hw : s.held .pr (prBlock c) = some w) :
    let o4 := presented 0xFFFF7C00#32 w (drawAt s 0)
    let o5 := presented 0xFFFF7C00#32 ((o4 &&& 0xFFFF7FFF#32) ||| 0x00008000#32) (drawAt s 1)
    Ran [] [(.pr, prBlock c)] 2
      [rmwEvent .pr (prBlock c) 0x00008000#32 0xFFFF7FFF#32 o4,
       rmwEvent .pr (prBlock c) 0x00000000#32 0xFFFF7FFF#32 o5] s (toggleAtomic msc1 c s) ∧
    (toggleAtomic msc1 c s).held .pr (prBlock c) = some (o5 &&& 0xFFFF7FFF#32) := by
  intro o4 o5
  have w4 : rmwWord o4 0x00008000#32 0xFFFF7FFF#32 = (o4 &&& 0xFFFF7FFF#32) ||| 0x00008000#32 :=
    rmwWord_of_disjoint o4 (by decide)
  have w5 : rmwWord o5 0x00000000#32 0xFFFF7FFF#32 = (o5 &&& 0xFFFF7FFF#32) ||| 0x00000000#32 :=
    rmwWord_of_disjoint o5 (by decide)
  let s1 := busRmw .pr (prBlock c) 0xFFFF7C00#32 0x00008000#32 0xFFFF7FFF#32 s
  have ht : toggleAtomic msc1 c s =
      busRmw .pr (prBlock c) 0xFFFF7C00#32 0x00000000#32 0xFFFF7FFF#32 s1 := by
    have k : bitWord msc1.atomicUpdateW = 0x00008000#32 := by decide
    have kn : ~~~(0x00008000#32) = 0xFFFF7FFF#32 := by decide
    simp only [toggleAtomic, pllRmw, prAddr_refDiv, prOwned_pllRefDiv, k, kn]
    rfl
  have r4 := ran_busRmw .pr (prBlock c) 0xFFFF7C00#32 0x00008000#32 0xFFFF7FFF#32 s
  have r5 := ran_busRmw .pr (prBlock c) 0xFFFF7C00#32 0x00000000#32 0xFFFF7FFF#32 s1
  have e4 : s.readValue .pr (prBlock c) 0xFFFF7C00#32 = o4 := readValue_some _ hw
  have h1 : s1.held .pr (prBlock c) = some ((o4 &&& 0xFFFF7FFF#32) ||| 0x00008000#32) := by
    rw [busRmw_held, if_pos ⟨rfl, rfl⟩, e4, w4]
  have e5 : s1.readValue .pr (prBlock c) 0xFFFF7C00#32 = o5 := readValue_of_held r4.2.2.2.2.1 _ h1
  rw [e4, w4] at r4
  rw [e5, w5] at r5
  rw [ht]
  refine ⟨ran_mono (ran_trans r4 r5) (by simp) (by simp) rfl rfl, ?_⟩
  rw [busRmw_held, if_pos ⟨rfl, rfl⟩, e5, w5, BitVec.or_zero]

/-- A commit seen from a machine n reads earlier that touched PLL_CNTL no more than this. -/
theorem commitShape_of_drew {n : Nat} {s u t : State} {c : Ctrl} {h1 h2 : Word}
    {first second : List Word} {es : List Event} (hd : Drew n 0 s u)
    (hg : u.held .pr (prBlock c + 2) = s.held .pr (prBlock c + 2))
    (h : CommitShape u t c 0 h1 h2 first second es) : CommitShape s t c n h1 h2 first second es := by
  obtain ⟨hf, hs, o1, o2, o3, o4, o5, he, hw1, a1, a2, a3, a4, a5, hw2, b⟩ := h
  refine ⟨hf, hs, o1, o2, o3, o4, o5, he, waitAnswers_of_drew hd hw1, ?_, ?_, ?_, ?_, ?_, ?_, b⟩
  · rw [a1, drawAt_of_drew hd]; simp
  · rw [a2, drawAt_of_drew hd]; simp [Nat.add_assoc]
  · rw [a3, readAt_of_drew hd hg]; simp [Nat.add_assoc]
  · rw [a4, drawAt_of_drew hd]; simp [Nat.add_assoc]
  · rw [a5, drawAt_of_drew hd]; simp [Nat.add_assoc]
  · simpa [Nat.add_assoc] using waitAnswers_of_drew hd hw2

/-- A commit ends the same when what follows it keeps SOL_* and the PLL bank. -/
theorem commitShape_congr {n : Nat} {s t u : State} {c : Ctrl} {h1 h2 : Word}
    {first second : List Word} {es : List Event} (hr : ∀ r ∈ solRegs, u.reg r = t.reg r)
    (hh : ∀ a, u.held .pr a = t.held .pr a) (h : CommitShape s t c n h1 h2 first second es) :
    CommitShape s u c n h1 h2 first second es := by
  have e : refDivField u = refDivField t ∧ fbPostFields u = fbPostFields t ∧ gainField u = gainField t := by
    simp only [refDivField, fbPostFields, gainField, State.regNat]
    rw [hr .solRef (by decide), hr .solFb (by decide), hr .solFrac (by decide), hr .solPcode (by decide),
      hr .solGain (by decide)]
    exact ⟨rfl, rfl, rfl⟩
  unfold CommitShape commitWrites at *
  simp only [hh, e.1, e.2.1, e.2.2]
  exact h

/-- The reference divider that a commit leaves in REF_DIV. -/
theorem refDiv_after_toggle (o1 v d d' : Word) :
    presented 0xFFFF7C00#32 ((presented 0xFFFF7C00#32 ((o1 &&& 0xFFFFFC00#32) ||| v) d &&& 0xFFFF7FFF#32)
      ||| 0x00008000#32) d' &&& 0xFFFF7FFF#32 &&& 0x000003FF#32 = v &&& 0x000003FF#32 := by
  apply BitVec.eq_of_getLsbD_eq
  intro i hi
  simp only [presented, BitVec.getLsbD_and, BitVec.getLsbD_not, BitVec.getLsbD_or]
  interval_cases i <;> simp

/-- A commit writes no core register but WAITCNT and PHASE (45_atomic_update.md R200). -/
theorem commitSolution_reg (c : Ctrl) (s : State) {r : Reg} (h1 : r ≠ .waitcnt) (h2 : r ≠ .phase) :
    (commitSolution msc1 c s).reg r = s.reg r := by
  have w : ∀ u, (waitPending msc1 c u).reg r = u.reg r := by
    intro u
    obtain ⟨ws, -, h, -⟩ := waitPending_does c u
    exact h.1 r (by simpa using h1)
  have p : ∀ n u, (setProtocolStep n u).reg r = u.reg r := fun n u =>
    (ran_setProtocolStep n u).1 r (by simpa using h2)
  simp only [commitSolution, commit, p, w, toggleAtomic, writeDividers, pllRmw, busRmw_reg]

/-- `Commit` (45_atomic_update.md R201) of any values: the wait, the five writes, the wait. -/
theorem commit_does (c : Ctrl) (ref fb frac pcode gain : Nat) (s t : State)
    (ht : t = commit msc1 c ref fb frac pcode gain s)
    (f1 : refDivField t = BitVec.ofNat 32 (ref % 1024))
    (f2 : fbPostFields t = BitVec.ofNat 32 (fb % 2048 + frac % 16 * 2 ^ 11 + pcode % 8 * 2 ^ 16))
    (f3 : gainField t = BitVec.ofNat 32 (gain % 8 * 2 ^ 11)) :
    ∃ (first second : List Word) (es : List Event),
      CommitShape s t c 0 (heldAt s .pr (prBlock c) 0)
        (heldAt s .pr (prBlock c + 1) (first.length + 1)) first second es ∧
      Ran [.waitcnt, .phase] [(.pr, prBlock c), (.pr, prBlock c + 1), (.pr, prBlock c + 2)]
        (first.length + 5 + second.length) es s t ∧
      t.regNat .waitcnt = second.length := by
  have keep : ∀ (k : Nat) (u : State) (a : Nat), (setProtocolStep k u).held .pr a = u.held .pr a := by
    intro k u a; simp [setProtocolStep]
  simp only [commit] at ht
  -- the first wait
  obtain ⟨s1, e1⟩ : ∃ u, u = setProtocolStep 1 s := ⟨_, rfl⟩
  have r1 := ran_setProtocolStep 1 s
  have g1 := keep 1 s (prBlock c)
  rw [← e1] at ht r1 g1
  obtain ⟨first, hf, rf, -, af, hf0⟩ := waitPending_does c s1
  obtain ⟨s2, e2⟩ : ∃ u, u = waitPending msc1 c s1 := ⟨_, rfl⟩
  rw [← e2] at ht rf hf0
  -- the divider writes
  obtain ⟨s3, e3⟩ : ∃ u, u = setProtocolStep 2 s2 := ⟨_, rfl⟩
  have r2 := ran_setProtocolStep 2 s2
  have g3 := keep 2 s2 (prBlock c)
  rw [← e3] at ht r2 g3
  obtain ⟨rd, hd1, hd2, hd3⟩ := writeDividers_does c ref fb frac pcode gain s3
  obtain ⟨s4, e4⟩ : ∃ u, u = writeDividers msc1 c ref fb frac pcode gain s3 := ⟨_, rfl⟩
  rw [← e4] at ht rd hd1 hd2 hd3
  -- the toggle
  obtain ⟨s5, e5⟩ : ∃ u, u = setProtocolStep 3 s4 := ⟨_, rfl⟩
  have r3 := ran_setProtocolStep 3 s4
  have g5 := keep 3 s4 (prBlock c)
  rw [← e5] at ht r3 g5
  obtain ⟨rt, ht6⟩ := toggleAtomic_does c (g5.trans hd1)
  obtain ⟨s6, e6⟩ : ∃ u, u = toggleAtomic msc1 c s5 := ⟨_, rfl⟩
  rw [← e6] at ht rt ht6
  -- the second wait
  obtain ⟨s7, e7⟩ : ∃ u, u = setProtocolStep 4 s6 := ⟨_, rfl⟩
  have r4 := ran_setProtocolStep 4 s6
  have g7 := keep 4 s6 (prBlock c)
  rw [← e7] at ht r4 g7
  obtain ⟨second, hs, rw2, hw, as, hs0⟩ := waitPending_does c s7
  obtain ⟨s8, e8⟩ : ∃ u, u = waitPending msc1 c s7 := ⟨_, rfl⟩
  rw [← e8] at ht rw2 hw hs0
  have r0 := ran_setProtocolStep 0 s8
  have g8 := keep 0 s8 (prBlock c)
  rw [← ht] at r0 g8
  clear e1 e2 e3 e4 e5 e6 e7 e8 ht
  -- what the words read are, counted from s
  have p3 := ran_trans (ran_trans r1 rf) r2
  have p5 := ran_trans (ran_trans p3 rd) r3
  have p7 := ran_trans (ran_trans p5 rt) r4
  have d3 : Drew first.length 0 s s3 := by simpa using p3.2.2.2.2.1
  have d5 : Drew (first.length + 3) 0 s s5 := by simpa using p5.2.2.2.2.1
  have d7 : Drew (first.length + 5) 0 s s7 := by simpa [Nat.add_assoc] using p7.2.2.2.2.1
  have q3 : ∀ a, a ≠ prBlock c → s3.held .pr a = s.held .pr a :=
    fun a ha => p3.2.1 .pr a (by simp [ha])
  rw [heldAt_of_drew r1.2.2.2.2.1 g1] at af hf0
  have o1e : readAt s3 .pr (prBlock c) 0xFFFF7C00#32 0 =
      presented 0xFFFF7C00#32 (heldAt s .pr (prBlock c) 0) (drawAt s first.length) := by
    simp only [readAt, drawAt_of_drew d3, Nat.add_zero]
    rw [heldAt, g3, hf0]
    rfl
  have o2e := readAt_of_drew d3 (q3 (prBlock c + 1) (by omega)) 0xFFF88000#32 1
  have o3e := readAt_of_drew d3 (q3 (prBlock c + 2) (by omega)) 0xFFFFC7FF#32 2
  rw [heldAt, g7, ht6, Option.getD_some] at as hs0
  rw [drawAt_of_drew d5, drawAt_of_drew d5] at rt as hs0
  rw [← f1] at rd hd1 rt as hs0
  rw [← f2] at rd hd2
  rw [← f3] at rd hd3
  obtain ⟨o1, x1⟩ : ∃ x, x = readAt s3 .pr (prBlock c) 0xFFFF7C00#32 0 := ⟨_, rfl⟩
  obtain ⟨o2, x2⟩ : ∃ x, x = readAt s3 .pr (prBlock c + 1) 0xFFF88000#32 1 := ⟨_, rfl⟩
  obtain ⟨o3, x3⟩ : ∃ x, x = readAt s3 .pr (prBlock c + 2) 0xFFFFC7FF#32 2 := ⟨_, rfl⟩
  rw [← x1] at rd hd1 rt as hs0
  rw [← x2] at rd hd2
  rw [← x3] at rd hd3
  obtain ⟨o4, x4⟩ : ∃ x, x = presented 0xFFFF7C00#32 ((o1 &&& 0xFFFFFC00#32) ||| refDivField t)
    (drawAt s (first.length + 3 + 0)) := ⟨_, rfl⟩
  rw [← x4] at rt as hs0
  obtain ⟨o5, x5⟩ : ∃ x, x = presented 0xFFFF7C00#32 ((o4 &&& 0xFFFF7FFF#32) ||| 0x00008000#32)
    (drawAt s (first.length + 3 + 1)) := ⟨_, rfl⟩
  rw [← x5] at rt as hs0
  have kept : ∀ a, a ≠ prBlock c → t.held .pr a = s4.held .pr a := by
    intro a ha
    rw [r0.2.1 .pr a (by simp), rw2.2.1 .pr a (by simp [ha]), r4.2.1 .pr a (by simp),
      rt.2.1 .pr a (by simp [ha]), r3.2.1 .pr a (by simp)]
  have p := ran_trans (ran_trans (ran_trans (ran_trans (ran_trans p3 rd) r3) rt) (ran_trans r4 rw2)) r0
  refine ⟨first, second, _,
    ⟨hf, hs, o1, o2, o3, o4, o5, rfl, ?_, ?_, ?_, ?_, ?_, ?_, ?_, g8.trans hs0,
      (kept _ (by omega)).trans hd2, (kept _ (by omega)).trans hd3⟩,
    ran_mono p (by simp) (by simp) (by omega) ?_, ?_⟩
  · simpa using waitAnswers_of_drew r1.2.2.2.2.1 af
  · rw [x1, o1e, Nat.zero_add]
  · rw [x2, o2e, Nat.zero_add]; rfl
  · rw [x3, o3e, Nat.zero_add]
  · rw [x4, Nat.zero_add]
  · rw [x5, Nat.zero_add]
  · rw [Nat.zero_add]; exact waitAnswers_of_drew (m := first.length + 5) (n := 0) d7 as
  · simp [commitWrites]
  · rw [State.regNat, r0.1 .waitcnt (by decide)]; exact hw

/-- `Commit` of the SOL_* registers (45_atomic_update.md R201). -/
theorem commitSolution_does (c : Ctrl) (s : State) :
    ∃ (first second : List Word) (es : List Event),
      CommitShape s (commitSolution msc1 c s) c 0 (heldAt s .pr (prBlock c) 0)
        (heldAt s .pr (prBlock c + 1) (first.length + 1)) first second es ∧
      Ran [.waitcnt, .phase] [(.pr, prBlock c), (.pr, prBlock c + 1), (.pr, prBlock c + 2)]
        (first.length + 5 + second.length) es s (commitSolution msc1 c s) ∧
      (commitSolution msc1 c s).regNat .waitcnt = second.length := by
  have hsol : ∀ r, r ≠ .waitcnt → r ≠ .phase → (commitSolution msc1 c s).regNat r = s.regNat r :=
    fun r h1 h2 => congrArg BitVec.toNat (commitSolution_reg c s h1 h2)
  refine commit_does c (s.regNat .solRef) (s.regNat .solFb) (s.regNat .solFrac) (s.regNat .solPcode)
    (s.regNat .solGain) s _ rfl ?_ ?_ ?_
  · rw [refDivField, hsol _ (by decide) (by decide)]
  · rw [fbPostFields, hsol _ (by decide) (by decide), hsol _ (by decide) (by decide),
      hsol _ (by decide) (by decide)]
  · rw [gainField, hsol _ (by decide) (by decide)]

end Sys2Proof.Laws
end

