-- ==== Sys2Proof/Laws/PerInstr.lean ====
section
/-! SUPPORT. The statements made of every instruction, one lemma per constructor. -/

namespace Sys2Proof.Laws.EncodedFields

/-- The encoding puts the instruction's fields where the format CMD has them (30_encoding.md R93), the
word matches the instruction's row (R97), and its fields are legal (R98). -/
def Statement (i : Instr) : Prop :=
  rawOfWord (encode i) = i.raw ∧ encode i &&& (rowMatchMask i).2 = (rowMatchMask i).1 ∧ i.wf = true

theorem pllsolve (c : Ctrl) : Statement (.pllsolve c) := by
  cases c <;> exact ⟨by decide, by decide, by decide⟩

theorem gaincls : Statement (.gaincls) := by
  exact ⟨by decide, by decide, by decide⟩

theorem scalcomp : Statement (.scalcomp) := by
  exact ⟨by decide, by decide, by decide⟩

theorem timpack (c : Ctrl) (v : Variant) : Statement (.timpack c v) := by
  cases c <;> cases v <;> exact ⟨by decide, by decide, by decide⟩

theorem pllcommit (c : Ctrl) : Statement (.pllcommit c) := by
  cases c <;> exact ⟨by decide, by decide, by decide⟩

theorem dpmsset (c : Ctrl) (l : Level) : Statement (.dpmsset c l) := by
  cases c <;> cases l <;> exact ⟨by decide, by decide, by decide⟩

theorem modeset (c : Ctrl) : Statement (.modeset c) := by
  cases c <;> exact ⟨by decide, by decide, by decide⟩

theorem setbase (c : Ctrl) : Statement (.setbase c) := by
  cases c <;> exact ⟨by decide, by decide, by decide⟩

theorem timprog (c : Ctrl) : Statement (.timprog c) := by
  cases c <;> exact ⟨by decide, by decide, by decide⟩

theorem pllprog (c : Ctrl) : Statement (.pllprog c) := by
  cases c <;> exact ⟨by decide, by decide, by decide⟩

theorem bwnotify (c : Ctrl) : Statement (.bwnotify c) := by
  cases c <;> exact ⟨by decide, by decide, by decide⟩

theorem scalprog (c : Ctrl) : Statement (.scalprog c) := by
  cases c <;> exact ⟨by decide, by decide, by decide⟩

end Sys2Proof.Laws.EncodedFields
end

