-- ==== Sys2Proof/Laws/Words.lean ====
section
/-! SUPPORT. The values of the packed words: total/display and sync words (44_timing_packer.md R172 to
R175, R180 to R183) and stretch words (43_scaler.md R142, R145, R146), as sums of fields. -/

namespace Sys2Proof.Laws

open Sys2Proof.Machine

/-- A field's value as an integer. -/
theorem emod_toNat_cast (v : Int) (n : Nat) : ((v % (2 ^ n : Nat)).toNat : Int) = v % 2 ^ n := by
  rw [Int.toNat_of_nonneg (Int.emod_nonneg _ (by positivity))]; push_cast; rfl

/-- A total/display word. -/
theorem totalDispWord_value (a b : Int) {n m : Nat} (hn : n ≤ 16) (hm : m ≤ 16) :
    ((totalDispWord n m a b).toNat : Int) = a % 2 ^ n + b % 2 ^ m * 2 ^ 16 := by
  have h1 := toNat_fieldAt a (n := n) (k := 0) (by omega)
  have h2 := toNat_fieldAt b (n := m) (k := 16) (by omega)
  have hl := emod_toNat_lt a n
  have e : 2 ^ n ≤ 2 ^ 16 := Nat.pow_le_pow_right (by norm_num) hn
  have t1 := emod_toNat_cast a n
  have t2 := emod_toNat_cast b m
  unfold totalDispWord
  rw [toNat_or_above (k := 16) (m := (b % (2 ^ m : Nat)).toNat) (by rw [h1]; omega) h2, h1, h2,
    Nat.cast_add, Nat.cast_mul, Nat.cast_mul, t1, t2]
  norm_num

/-- A sync word: start, width and polarity. -/
theorem syncWord_value (start width : Int) (pol : Bool) {n m : Nat} (hn : n ≤ 16) (hm : m ≤ 6) :
    ((fieldAt start n 0 ||| fieldAt width m 16 ||| bitIf pol 23).toNat : Int) =
      start % 2 ^ n + (width % 2 ^ m * 2 ^ 16 + if pol then 2 ^ 23 else 0) := by
  have h1 := totalDispWord_value start width hn (show m ≤ 16 by omega)
  have hb := toNat_bitIf pol (k := 23) (by norm_num)
  unfold totalDispWord at h1
  have l1 := emod_toNat_lt start n
  have l2 := emod_toNat_lt width m
  have e1 : (2 : Nat) ^ n ≤ 2 ^ 16 := Nat.pow_le_pow_right (by norm_num) hn
  have e2 : (2 : Nat) ^ m ≤ 2 ^ 6 := Nat.pow_le_pow_right (by norm_num) hm
  have t1 := emod_toNat_cast start n
  have t2 := emod_toNat_cast width m
  rw [toNat_or_above (k := 23) (m := if pol then 1 else 0) (by omega) hb, hb, Nat.cast_add, h1]
  cases pol <;> simp [add_assoc]

/-- A stretch word of a disabled axis. -/
theorem disabledStretch_value (size : Int) :
    ((disabledStretch msc1 size).toNat : Int) = size % 2 ^ 16 * 2 ^ 16 := by
  have h := toNat_fieldAt size (n := 16) (k := 16) (by norm_num)
  have t := emod_toNat_cast size 16
  have e : (disabledStretch msc1 size).toNat = (size % (2 ^ 16 : Nat)).toNat * 2 ^ 16 := h
  rw [e, Nat.cast_mul, t]; norm_num

/-- A stretch word of an enabled axis. -/
theorem enabledStretch_value (ratio : Nat) (size : Int) :
    ((enabledStretch msc1 ratio size).toNat : Int) =
      (ratio % 2 ^ 13 : Nat) + 2 ^ 13 + 2 ^ 14 + size % 2 ^ 16 * 2 ^ 16 := by
  have h1 := toNat_fieldAt_nat ratio (n := 13) (k := 0) (by norm_num)
  have h2 : (bitWord 13).toNat = 1 * 2 ^ 13 := by decide
  have h3 : (bitWord 14).toNat = 1 * 2 ^ 14 := by decide
  have h4 := toNat_fieldAt size (n := 16) (k := 16) (by norm_num)
  have t := emod_toNat_cast size 16
  have l : ratio % 2 ^ 13 < 2 ^ 13 := Nat.mod_lt _ (by norm_num)
  have e1 := toNat_or_above (a := fieldAt ratio 13 0) (b := bitWord 13) (k := 13) (m := 1)
    (by rw [h1]; omega) h2
  have e2 := toNat_or_above (a := fieldAt ratio 13 0 ||| bitWord 13) (b := bitWord 14) (k := 14) (m := 1)
    (by rw [e1, h1, h2]; omega) h3
  have e3 := toNat_or_above (a := fieldAt ratio 13 0 ||| bitWord 13 ||| bitWord 14)
    (b := fieldAt size 16 16) (k := 16) (m := (size % (2 ^ 16 : Nat)).toNat)
    (by rw [e2, e1, h1, h2, h3]; omega) h4
  have e : (enabledStretch msc1 ratio size).toNat =
      ratio % 2 ^ 13 * 2 ^ 0 + 1 * 2 ^ 13 + 1 * 2 ^ 14 + (size % (2 ^ 16 : Nat)).toNat * 2 ^ 16 := by
    rw [e2, e1, h1, h2, h3, h4] at e3
    exact e3
  rw [e]; push_cast; rw [Int.toNat_of_nonneg (Int.emod_nonneg _ (by norm_num))]; norm_num

/-- Truncating division by the character clock of a value that is not negative. -/
theorem charClocks_natCast (v : Nat) : charClocks msc1 v = (v : Int) / 8 := by
  simp [charClocks, truncDiv, msc1]

end Sys2Proof.Laws
end

