-- ==== Sys2Proof/Machine/Assembler.lean ====
section
/-! DEFINITION. The assembler syntax (30_encoding.md R100, R101): what a line of a program stands for, as
the host operations it makes. The text of a line is a list of characters. What the rules leave open is
in assumption log 10. -/

namespace Sys2Proof.Machine

/-- One line of a program (30_encoding.md R100, R101): a command, a pseudo-command, a host register
write `WR name, value` or a host read `RD name`. -/
inductive AsmLine where
  | cmd (i : Instr)
  | pseudo (p : Pseudo)
  | wr (r : Reg) (v : Word)
  | rd (r : Reg)
  deriving DecidableEq, Repr

/-- The index by which the host names a core register (10_state.md R21, R22). -/
def Reg.hostIndex (r : Reg) : Fin 128 := ⟨(Reg.index r).val, by omega⟩

/-- The host operations a line makes, in order (30_encoding.md R90, R100, R101). -/
def AsmLine.hostOps : AsmLine → List HostOp
  | .cmd i => [.issue (encode i)]
  | .pseudo p => p.expand.map fun i => .issue (encode i)
  | .wr r v => [.write (Reg.hostIndex r) v]
  | .rd r => [.read (Reg.hostIndex r)]

/-- The names of the registers that belong to no controller (10_state.md R21). -/
def plainRegNames : List (String × Reg) :=
  [("M_HDISP", .mHdisp), ("M_HTOTAL", .mHtotal), ("M_HSS", .mHss), ("M_HSE", .mHse),
   ("M_HBS", .mHbs), ("M_HBE", .mHbe), ("M_VDISP", .mVdisp), ("M_VTOTAL", .mVtotal),
   ("M_VSS", .mVss), ("M_VSE", .mVse), ("M_VBS", .mVbs), ("M_VBE", .mVbe),
   ("M_FLAGS", .mFlags), ("M_CLOCK", .mClock), ("P_W", .pW), ("P_H", .pH),
   ("S_POLICY", .sPolicy), ("FB_HANDLE", .fbHandle), ("FB_X", .fbX), ("FB_Y", .fbY),
   ("FB_PITCH", .fbPitch), ("FB_FORMAT", .fbFormat), ("F_SOLVE", .fSolve), ("X_REF", .xRef),
   ("X_FB", .xFb), ("X_POST", .xPost), ("G_REFFREQ", .gReffreq), ("G_REF", .gRef),
   ("G_FB", .gFb), ("SC_HCUR", .scHcur), ("SC_VCUR", .scVcur), ("CAPS", .caps),
   ("SOL_REF", .solRef), ("SOL_FB", .solFb), ("SOL_FRAC", .solFrac), ("SOL_POST", .solPost),
   ("SOL_PCODE", .solPcode), ("SOL_CLK", .solClk), ("SOL_GAIN", .solGain), ("G_OUT", .gOut),
   ("TP_HTD", .tpHtd), ("TP_HSW", .tpHsw), ("TP_VTD", .tpVtd), ("TP_VSW", .tpVsw),
   ("TP_CTL", .tpCtl), ("SC_HSTR", .scHstr), ("SC_VSTR", .scVstr), ("SC_CENTER", .scCenter),
   ("SC_OVR", .scOvr), ("SC_PT_HTD", .scPtHtd), ("SC_PT_HSW", .scPtHsw), ("SC_PT_VTD", .scPtVtd),
   ("SC_PT_VSW", .scPtVsw), ("SC_ACT_H", .scActH), ("SC_ACT_V", .scActV), ("STATUS", .status),
   ("PHASE", .phase), ("WAITCNT", .waitcnt)]

/-- The names of the registers of a controller's bank, without the `[c]` (10_state.md R21). -/
def bankRegNames (c : Ctrl) : List (String × Reg) :=
  [("D_REFFREQ", .dReffreq c), ("D_MAXREF", .dMaxref c), ("D_MINFB", .dMinfb c),
   ("D_MAXFB", .dMaxfb c), ("D_REFOVR", .dRefovr c), ("PWR", .pwr c), ("CURPOL", .curpol c),
   ("CURFB", .curfb c)]

/-- The names of all 74 registers as a program spells them. -/
def regNames : List (List Char × Reg) :=
  plainRegNames.map (fun p => (p.1.toList, p.2)) ++
    (bankRegNames .primary).map (fun p => (p.1.toList ++ "[0]".toList, p.2)) ++
    (bankRegNames .secondary).map (fun p => (p.1.toList ++ "[1]".toList, p.2))

/-- A space or a tab. -/
def isBlankChar (ch : Char) : Bool := ch == ' ' || ch == '\t'

/-- The text without blanks at either end. -/
def trimChars (t : List Char) : List Char :=
  ((t.dropWhile isBlankChar).reverse.dropWhile isBlankChar).reverse

/-- The texts between the commas. -/
def splitCommas : List Char → List (List Char)
  | [] => [[]]
  | ch :: rest =>
    match splitCommas rest with
    | [] => [[ch]]
    | part :: parts => if ch == ',' then [] :: part :: parts else (ch :: part) :: parts

/-- The value of a digit in a base of at most 16. -/
def digitValue (base : Nat) (ch : Char) : Option Nat :=
  let n := ch.toNat
  let d :=
    if 48 ≤ n ∧ n ≤ 57 then n - 48
    else if 97 ≤ n ∧ n ≤ 102 then n - 87
    else if 65 ≤ n ∧ n ≤ 70 then n - 55
    else 16
  if d < base then some d else none

/-- The number that digits spell after a value already read. -/
def digitsFrom (base : Nat) : Nat → List Char → Option Nat
  | acc, [] => some acc
  | acc, ch :: rest =>
    match digitValue base ch with
    | some d => digitsFrom base (acc * base + d) rest
    | none => none

/-- A number, decimal or `0x` hexadecimal (30_encoding.md R100). -/
def parseNumber : List Char → Option Nat
  | [] => none
  | '0' :: 'x' :: d :: rest => digitsFrom 16 0 (d :: rest)
  | t => digitsFrom 10 0 t

/-- A 32-bit value; a larger number is no value. -/
def parseWord (t : List Char) : Option Word :=
  match parseNumber t with
  | some n => if n < 2 ^ 32 then some (BitVec.ofNat 32 n) else none
  | none => none

/-- A controller: 0 or 1, PRI or SEC (30_encoding.md R100). -/
def parseCtrl (t : List Char) : Option Ctrl :=
  if t == "PRI".toList then some .primary
  else if t == "SEC".toList then some .secondary
  else
    match parseNumber t with
    | some 0 => some .primary
    | some 1 => some .secondary
    | _ => none

/-- A TIMPACK variant (30_encoding.md R100). -/
def parseVariant (t : List Char) : Option Variant :=
  if t == "STD".toList then some .std else if t == "CENTER".toList then some .center else none

/-- A DPMS level (30_encoding.md R100). -/
def parseLevel (t : List Char) : Option Level :=
  if t == "ON".toList then some .on
  else if t == "STANDBY".toList then some .standby
  else if t == "SUSPEND".toList then some .suspend
  else if t == "OFF".toList then some .off
  else none

/-- A register's name. -/
def parseReg (t : List Char) : Option Reg := (regNames.find? fun p => p.1 == t).map (·.2)

/-- The lines of one operand that name a controller alone (30_encoding.md R100, R101). -/
def ctrlLines : List (String × (Ctrl → AsmLine)) :=
  [("PLLSOLVE", fun c => .cmd (.pllsolve c)), ("PLLCOMMIT", fun c => .cmd (.pllcommit c)),
   ("MODESET", fun c => .cmd (.modeset c)), ("SETBASE", fun c => .cmd (.setbase c)),
   ("TIMPROG", fun c => .cmd (.timprog c)), ("PLLPROG", fun c => .cmd (.pllprog c)),
   ("BWNOTIFY", fun c => .cmd (.bwnotify c)), ("SCALPROG", fun c => .cmd (.scalprog c)),
   ("BLANK", fun c => .pseudo (.blank c)), ("UNBLANK", fun c => .pseudo (.unblank c)),
   ("FULLSET", fun c => .pseudo (.fullset c))]

/-- A line of a mnemonic and its operands (30_encoding.md R100, R101). DESIGN CHOICE (assumption log 10): a
line makes one host write or read at most. R100 limits commands to one a line and says nothing of `WR` and
`RD`; the programs of 95_test_vectors.md print several `WR` on one line, which this parser refuses. -/
def parseForm (mnemonic : List Char) : List (List Char) → Option AsmLine
  | [] =>
    if mnemonic == "GAINCLS".toList then some (.cmd .gaincls)
    else if mnemonic == "SCALCOMP".toList then some (.cmd .scalcomp)
    else none
  | [a] =>
    if mnemonic == "RD".toList then (parseReg a).map AsmLine.rd
    else
      match ctrlLines.find? fun p => p.1.toList == mnemonic with
      | some p => (parseCtrl a).map p.2
      | none => none
  | [a, b] =>
    if mnemonic == "TIMPACK".toList then
      match parseCtrl a, parseVariant b with
      | some c, some v => some (.cmd (.timpack c v))
      | _, _ => none
    else if mnemonic == "DPMSSET".toList then
      match parseCtrl a, parseLevel b with
      | some c, some l => some (.cmd (.dpmsset c l))
      | _, _ => none
    else if mnemonic == "WR".toList then
      match parseReg a, parseWord b with
      | some r, some v => some (.wr r v)
      | _, _ => none
    else none
  | _ => none

/-- The operands of the text after the mnemonic, separated by commas. -/
def operandsOf (t : List Char) : List (List Char) :=
  let t := trimChars t
  if t.isEmpty then [] else (splitCommas t).map trimChars

/-- One line of a program as host operations: `;` starts a comment, an empty line makes none, and a text
that is no line of the syntax has no meaning (30_encoding.md R100). -/
def assembleLine (t : List Char) : Option (List HostOp) :=
  let t := trimChars (t.takeWhile fun ch => ch != ';')
  if t.isEmpty then some []
  else
    (parseForm (t.takeWhile fun ch => !isBlankChar ch)
      (operandsOf (t.dropWhile fun ch => !isBlankChar ch))).map AsmLine.hostOps

/-- A program, line by line (30_encoding.md R90, R100). -/
def assemble : List (List Char) → Option (List HostOp)
  | [] => some []
  | t :: rest =>
    match assembleLine t, assemble rest with
    | some a, some b => some (a ++ b)
    | _, _ => none

end Sys2Proof.Machine
end

