-- ==== Sys2Proof/Tests/Slice0.lean ====
section
/-! SUPPORT. The model's own tests: an ill-formed term for each check of WellFormed, words written out
field by field, one step of each command on the examples of spec/ (the comment of a test names them),
and, for each statement with hypotheses, a state that meets them. Expected values come from spec/. -/

namespace Sys2Proof.Tests

open Sys2Proof Sys2Proof.Machine Sys2Proof.Safety

/-- The reset state with registers loaded. -/
def st (l : List (Reg × Nat)) : State := l.foldl (fun s p => s.setRegNat p.1 p.2) State.reset

/-- The state after a command. -/
def after (i : Instr) (s : State) : State :=
  match exec i s with
  | .next t => t
  | .fault _ => State.reset
  | .refused _ => State.reset

/-- Whether a step gives a next state. -/
def steps (s : State) : Bool :=
  match step s with
  | .next _ => true
  | .fault _ => false
  | .refused _ => false

/-! ### WellFormed: an ill-formed term for each check -/

theorem test_wf_opc_zero : RawCmd.opcOk ⟨0, 0, 0, 0⟩ = false := by decide
theorem test_wf_opc_high : RawCmd.opcOk ⟨0x0D, 0, 0, 0⟩ = false := by decide
theorem test_wf_zero : RawCmd.zeroOk ⟨1, 0, 0, 1⟩ = false := by decide
theorem test_wf_controller : RawCmd.cOk ⟨2, 1, 0, 0⟩ = false := by decide
theorem test_wf_argument : RawCmd.argOk ⟨1, 0, 1, 0⟩ = false := by decide
theorem test_wf_variant : RawCmd.argOk ⟨4, 0, 2, 0⟩ = false := by decide
theorem test_wf_raw : RawCmd.wf ⟨3, 1, 0, 0⟩ = false := by decide
theorem test_wf_raw_ok : RawCmd.wf ⟨4, 1, 1, 0⟩ = true := by decide

/-- The mode of 44_timing_packer.md R178 with the blank values of R184. -/
def modeR178 : DisplayMode :=
  ⟨1024, 1344, 1048, 1184, 1024, 1344, 768, 806, 771, 777, 768, 806, false, false, 65000⟩

theorem test_wf_mode_ok : modeR178.wf = true := by decide
theorem test_wf_horizontal : DisplayMode.wfHorizontal { modeR178 with hdisplay := 7 } = false := by decide
theorem test_wf_hsync : DisplayMode.wfHsync { modeR178 with hsyncEnd := 1560 } = false := by decide
theorem test_wf_vertical : DisplayMode.wfVertical { modeR178 with vtotal := 0 } = false := by decide
theorem test_wf_vsync : DisplayMode.wfVsync { modeR178 with vsyncEnd := 803 } = false := by decide
theorem test_wf_blank : DisplayMode.wfBlank { modeR178 with hblankEnd := 1023 } = false := by decide
theorem test_wf_clock : DisplayMode.wfClock { modeR178 with clock := 0 } = false := by decide
theorem test_wf_descriptor : PllDescriptor.wf ⟨27000, 0, 2, 255, 0⟩ = false := by decide
theorem test_wf_descriptor_ok : PllDescriptor.wf ⟨27000, 1023, 2, 2047, 0⟩ = true := by decide
theorem test_wf_dr_addresses : Config.wfDrAddrs { msc1 with drBase := fun _ => 0 } = false := by decide
theorem test_wf_pr_addresses : Config.wfPrAddrs { msc1 with prBase := fun _ => 0 } = false := by decide
theorem test_wf_ratio : Config.wfRatio { msc1 with ratioMaxH := 8192 } = false := by decide
theorem test_wf_wait : Config.wfWait { msc1 with waitBound := 0 } = false := by decide
theorem test_wf_gain : Config.wfGain { msc1 with gainMin := 5 } = false := by decide
theorem test_wf_post : Config.wfPost { msc1 with postDivs := [0] } = false := by decide
theorem test_wf_config_ok : msc1.wf = true := by decide

/-! ### Words written out field by field: ZERO, ARG, C, OPC (30_encoding.md R93, R97) -/

theorem test_decode_pllsolve :
    decode (0b000000000000000000000#21 ++ 0b00#2 ++ 0b0#1 ++ 0b00000001#8) =
      .instr (.pllsolve .primary) := by decide
theorem test_decode_gaincls :
    decode (0b000000000000000000000#21 ++ 0b00#2 ++ 0b0#1 ++ 0b00000010#8) = .instr .gaincls := by
  decide
theorem test_decode_scalcomp :
    decode (0b000000000000000000000#21 ++ 0b00#2 ++ 0b0#1 ++ 0b00000011#8) = .instr .scalcomp := by
  decide
theorem test_decode_timpack :
    decode (0b000000000000000000000#21 ++ 0b01#2 ++ 0b1#1 ++ 0b00000100#8) =
      .instr (.timpack .secondary .center) := by decide
theorem test_decode_pllcommit :
    decode (0b000000000000000000000#21 ++ 0b00#2 ++ 0b1#1 ++ 0b00000101#8) =
      .instr (.pllcommit .secondary) := by decide
theorem test_decode_dpmsset :
    decode (0b000000000000000000000#21 ++ 0b10#2 ++ 0b0#1 ++ 0b00000110#8) =
      .instr (.dpmsset .primary .suspend) := by decide
theorem test_decode_modeset :
    decode (0b000000000000000000000#21 ++ 0b00#2 ++ 0b1#1 ++ 0b00000111#8) =
      .instr (.modeset .secondary) := by decide
theorem test_decode_setbase :
    decode (0b000000000000000000000#21 ++ 0b00#2 ++ 0b0#1 ++ 0b00001000#8) =
      .instr (.setbase .primary) := by decide
theorem test_decode_timprog :
    decode (0b000000000000000000000#21 ++ 0b00#2 ++ 0b1#1 ++ 0b00001001#8) =
      .instr (.timprog .secondary) := by decide
theorem test_decode_pllprog :
    decode (0b000000000000000000000#21 ++ 0b00#2 ++ 0b0#1 ++ 0b00001010#8) =
      .instr (.pllprog .primary) := by decide
theorem test_decode_bwnotify :
    decode (0b000000000000000000000#21 ++ 0b00#2 ++ 0b1#1 ++ 0b00001011#8) =
      .instr (.bwnotify .secondary) := by decide
theorem test_decode_scalprog :
    decode (0b000000000000000000000#21 ++ 0b00#2 ++ 0b0#1 ++ 0b00001100#8) =
      .instr (.scalprog .primary) := by decide

/-- One word for each way R98 names of being no command, each at a boundary. -/
theorem test_decode_illegal :
    decode 0x00000000#32 = .illegal .opcode ∧ decode 0x0000000D#32 = .illegal .opcode ∧
    decode 0x00000801#32 = .illegal .zeroField ∧ decode 0x80000001#32 = .illegal .zeroField ∧
    decode 0x00000102#32 = .illegal .controller ∧ decode 0x00000201#32 = .illegal .argument ∧
    decode 0x00000402#32 = .illegal .argument ∧ decode 0x00000404#32 = .illegal .argument := by decide

/-- 95_test_vectors.md, the encodings of 46_dpms.md R230. -/
theorem test_encode_dpms :
    encode (.dpmsset .primary .off) = 0x00000606#32 ∧
    encode (.dpmsset .secondary .suspend) = 0x00000506#32 := by decide

theorem test_table_word : decodeTableWord 32 0x109 = some (.timprog .secondary) := by decide

/-! ### The assembler (30_encoding.md R100, R101) -/

theorem test_assemble_fullset :
    assemble ["FULLSET 0 ; a mode set".toList] =
      some [.issue 0x00000606#32, .issue 0x00000007#32, .issue 0x00000006#32] := by decide +kernel

theorem test_assemble_host :
    assemble ["WR D_MAXREF[1], 0x10".toList, "RD STATUS".toList, "TIMPACK SEC, CENTER".toList] =
      some [.write 41 16#32, .read 71, .issue 0x00000304#32] := by decide +kernel

/-! ### PLLSOLVE -/

/-- The descriptor of 41_pll_solver.md R122. -/
def descA : List (Reg × Nat) :=
  [(.dReffreq .primary, 100), (.dMaxref .primary, 2), (.dMinfb .primary, 1), (.dMaxfb .primary, 3)]

/-- The SOL_* values of a state. -/
def sol (s : State) : List Nat := solRegs.map s.regNat

/-- 41_pll_solver.md R122, flags 0b1010. -/
theorem test_pllsolve_bias :
    sol (after (.pllsolve .primary) (st (descA ++ [(.mClock, 70), (.fSolve, 0xA)]))) =
      [1, 3, 0, 4, 3, 75, 1] := by decide +kernel

/-- 95_test_vectors.md V9: six candidates of error 0. -/
theorem test_pllsolve_tie :
    sol (after (.pllsolve .primary) (st (descA ++ [(.mClock, 50)]))) = [2, 1, 0, 1, 0, 50, 1] := by
  decide +kernel

/-! ### GAINCLS -/

/-- 42_gain_classifier.md R135: exactly 300000 gives 7. -/
theorem test_gaincls_threshold :
    (after .gaincls (st [(.gReffreq, 27000), (.gRef, 9), (.gFb, 100)])).reg .gOut = 7 := by
  decide +kernel

/-- 95_test_vectors.md G3: the guard, with operands whose product needs 64 bits. -/
theorem test_gaincls_guard :
    (after .gaincls (st [(.gReffreq, 0xFFFFFFFF), (.gRef, 0), (.gFb, 0xFFFFFFFF)])).reg .gOut = 1 := by
  decide +kernel

/-! ### SCALCOMP -/

/-- The timing operands of 44_timing_packer.md R178 and R184. -/
def timingOps : List (Reg × Nat) :=
  [(.mHdisp, 1024), (.mHtotal, 1344), (.mHss, 1048), (.mHse, 1184), (.mHbs, 1024), (.mHbe, 1344),
   (.mVdisp, 768), (.mVtotal, 806), (.mVss, 771), (.mVse, 777), (.mVbs, 768), (.mVbe, 806)]

/-- The SC_* values of a state. -/
def sc (s : State) : List Nat := scRegs.map s.regNat

/-- 43_scaler.md R154 (2): both auto-increment flags set. -/
theorem test_scalcomp_stretch :
    sc (after .scalcomp (st (timingOps ++ [(.pW, 1280), (.pH, 800), (.sPolicy, 2), (.scHcur, 0x8000),
      (.scVcur, 0x8000)]))) = [0x009F6CD0, 0x031F6F62, 0, 0, 0, 0, 0, 0, 0, 0] := by decide +kernel

/-- 43_scaler.md R154 (6): Center. -/
theorem test_scalcomp_center :
    sc (after .scalcomp (st (timingOps ++ [(.pW, 1280), (.pH, 800), (.sPolicy, 3)]))) =
      [0x007F0000, 0x02FF0000, 3, 1, 0x007F0028, 0x00110003, 0x02FF0026, 0x00060003, 1280, 800] := by
  decide +kernel

/-! ### TIMPACK -/

/-- The TP_* values of a state. -/
def tp (s : State) : List Nat := tpRegs.map s.regNat

/-- 44_timing_packer.md R178 with both negative syncs. -/
theorem test_timpack_std :
    tp (after (.timpack .primary .std) (st (timingOps ++ [(.mFlags, 0x18)]))) =
      [0x007F00A7, 0x00910410, 0x02FF0325, 0x00860302, 0] := by decide +kernel

/-- 44_timing_packer.md R184: the capped blank width; secondary, blanked. -/
theorem test_timpack_center :
    tp (after (.timpack .secondary .center) (st (timingOps ++ [(.mHbe, 2048)]))) =
      [0x007F006E, 0x00110003, 0x02FF0026, 0x00060003, 0x71] := by decide +kernel

/-- 70_reset_and_hazards.md R308: the all-zero mode straight after reset. -/
theorem test_timpack_zero :
    tp (after (.timpack .primary .std) State.reset) =
      [0x01FF03FF, 0x00011FF8, 0xFFFFFFFF, 0x00010FFF, 0] := by decide +kernel

/-! ### PLLCOMMIT -/

/-- A state with the solution of 41_pll_solver.md R110 in SOL_*. -/
def solved : State :=
  st [(.solRef, 9), (.solFb, 65), (.solPost, 3), (.solPcode, 2), (.solClk, 65000), (.solGain, 4)]

/-- 45_atomic_update.md R212. -/
theorem test_pllcommit :
    (after (.pllcommit .primary)
      { solved with readDraws := [0, 0, 0, 0, 0, 0, 0x80000000#32, 0] }).trace =
      [.rd .pr 0 0, .rmw .pr 0 9 0xFFFFFC00#32 0 9, .rmw .pr 1 0x00020041#32 0xFFF88000#32 0 0x00020041#32,
       .rmw .pr 2 0x00002000#32 0xFFFFC7FF#32 0 0x00002000#32,
       .rmw .pr 0 0x00008000#32 0xFFFF7FFF#32 9 0x00008009#32,
       .rmw .pr 0 0 0xFFFF7FFF#32 0x00008009#32 9, .rd .pr 0 0x80000009#32, .rd .pr 0 9] := by
  decide +kernel

/-- 45_atomic_update.md R203: a wait of at most three reads that never sees the bit clear goes on. -/
theorem test_wait_bound :
    (waitPending { msc1 with waitBound := 3 } .primary
      { State.reset with readDraws := List.replicate 5 0x80000000#32 }).reg .waitcnt = 3 := by
  decide +kernel

/-! ### DPMSSET -/

/-- 46_dpms.md R230, primary: the palette is reloaded and the upper bits come back as read. -/
theorem test_dpmsset_on :
    (after (.dpmsset .primary .on) { State.reset with readDraws := [0xABCD0073#32] }).trace =
      [.rmw .dr 0 1 0xFFFFFF8C#32 0xABCD0073#32 0xABCD0001#32, .palette .primary] := by decide +kernel

/-- 46_dpms.md R230, secondary. -/
theorem test_dpmsset_suspend :
    (after (.dpmsset .secondary .suspend) { State.reset with readDraws := [0x00000101#32] }).held .dr 0x40
      = some 0x00000171#32 := by decide +kernel

/-! ### SETBASE -/

/-- The operands of 47_modeset.md R243 (2), after (1). -/
def baseOps : List (Reg × Nat) :=
  [(.fbHandle, 9), (.fbX, 16), (.fbY, 2), (.fbPitch, 1024), (.fbFormat, 16), (.curfb .primary, 7)]

/-- 47_modeset.md R243 (2). -/
theorem test_setbase_hand_over :
    (after (.setbase .primary)
      { st baseOps with pins := [(7, 1)], pinDraws := [.ok 0x00400000#32 0] }).trace =
      [.pin 9 (.ok 0x00400000#32 0), .wr .dr 5 0x00401020#32, .wr .dr 6 0x00000400#32, .unpin 7] := by
  decide +kernel

/-- 47_modeset.md R243 (4). -/
theorem test_setbase_pin_fails :
    (after (.setbase .primary) { st baseOps with pinDraws := [.fail] }).reg .status = 0x00000042#32 := by
  decide +kernel

/-! ### TIMPROG -/

/-- 44_timing_packer.md R189. -/
theorem test_timprog_secondary :
    (after (.timprog .secondary) { st timingOps with readDraws := [0x00000171#32] }).trace =
      [.rmw .dr 0x40 0x00000071#32 0x00000100#32 0x00000171#32 0x00000171#32,
       .wr .dr 0x41 0x007F00A7#32, .wr .dr 0x42 0x00110410#32, .wr .dr 0x43 0x02FF0325#32,
       .wr .dr 0x44 0x00060302#32] := by decide +kernel

/-! ### PLLPROG -/

/-- The operands of 47_modeset.md R251 (4), honoured, with POWER_SENSITIVE. -/
def honourOps : List (Reg × Nat) :=
  [(.dReffreq .primary, 27000), (.fSolve, 0x10), (.xRef, 9), (.xFb, 65), (.xPost, 3), (.caps, 1)]

/-- The bank of 47_modeset.md R251 (2). -/
def bank : List (Nat × Word) := [(0, 9#32), (1, 0x00020041#32), (3, 0#32)]

/-- 47_modeset.md R251 (2): the fast path. -/
theorem test_pllprog_fast :
    (after (.pllprog .primary) { st honourOps with pr := bank, readDraws := [0, 0, 0] }).trace =
      [.rd .pr 0 9, .rd .pr 1 0x00020041#32, .rmw .pr 3 1 0xFFFFFFFE#32 0 1] := by decide +kernel

/-- 47_modeset.md R251 (5): a post divider outside the set takes the code of index 0. -/
theorem test_pllprog_fallback :
    sol (after (.pllprog .primary)
      { st [(.dReffreq .primary, 27000), (.fSolve, 0x10), (.xRef, 12), (.xFb, 231), (.xPost, 5)] with
        readDraws := List.replicate 7 0 }) = [12, 231, 0, 5, 0, 103950, 7] := by decide +kernel

/-! ### BWNOTIFY, SCALPROG, MODESET -/

/-- 47_modeset.md R252. -/
theorem test_bwnotify :
    (after (.bwnotify .primary) solved).trace = [.bw .primary 0x0000FDE8#32] := by decide +kernel

/-- 43_scaler.md R158. -/
theorem test_scalprog :
    (after (.scalprog .primary)
      { st (timingOps ++ [(.pW, 1280), (.pH, 800), (.sPolicy, 2)]) with
        readDraws := [0, 0, 0, 0, 0] }).trace =
      [.rd .dr 8 0, .rd .dr 9 0, .rmw .dr 8 0x009F6CCD#32 0x00008000#32 0 0x009F6CCD#32,
       .rmw .dr 9 0x031F6F5D#32 0x00008000#32 0 0x031F6F5D#32, .rmw .dr 10 0 0xFFFFFFFC#32 0 0] := by
  decide +kernel

/-- 47_modeset.md R256: the secondary with Aspect. -/
theorem test_scalprog_secondary :
    (after (.scalprog .secondary) (st [(.sPolicy, 2)])).reg .status = 0x00000022#32 := by decide +kernel

/-- The operands of a secondary mode set with an unsupported format, a policy and a fast path. -/
def modesetOps : List (Reg × Nat) :=
  timingOps ++ [(.dReffreq .secondary, 27000), (.fSolve, 0x10), (.xRef, 9), (.xFb, 65), (.xPost, 3),
    (.caps, 1), (.sPolicy, 1), (.fbFormat, 4)]

/-- 47_modeset.md R257: E_FORMAT, E_SCALING and FAST together. -/
theorem test_modeset_flags :
    (after (.modeset .secondary)
      { st modesetOps with
        pr := [(0x10, 9#32), (0x11, 0x00020041#32)], readDraws := List.replicate 4 0 }).reg .status =
      0x00000132#32 := by decide +kernel

/-- 60_exceptions.md R275: a failed pin is the one event. -/
theorem test_modeset_pin_fails :
    (after (.modeset .primary) { st [(.fbFormat, 32), (.fbHandle, 5)] with pinDraws := [.fail] }).trace =
      [.pin 5 .fail] := by decide +kernel

/-! ### The host -/

/-- 10_state.md R21, R22: indices 36, 40 and 44 take a write; 37, 45, 71 and 127 do not. -/
theorem test_host_write :
    ([36, 40, 44, 37, 45, 71, 127] : List (Fin 128)).map
      (fun i => (hostWrite i 5 State.reset).readIndex i.val) = [5, 5, 5, 1, 1, 0, 0] := by decide +kernel

/-- A word stored for the fetch runs as the first command: GAINCLS on zero operands gives the minimum. -/
theorem test_fetch_word :
    (match step (State.reset.withFetchWord 32 0x00000002) with
      | .next t => t.reg .gOut == 1 && t.reg .status == 2
      | .fault _ => false
      | .refused _ => false) = true := by decide +kernel

/-! ### Witnesses: for each statement with hypotheses, a state and operands that meet them -/

/-- The host issues a word next. -/
def issuing (w : Word) : State := State.reset.issueNext w

/-- StepRunsDecodedCommand. -/
theorem test_witness_step_runs :
    (issuing 0x00000109#32).host = .issue 0x00000109#32 :: [] ∧
    testBit ((issuing 0x00000109#32).reg .status) 0 = false ∧
    decode 0x00000109#32 = .instr (.timprog .secondary) := by decide +kernel

/-- IllegalWordOnlySetsFlag: a word for each clause, at its boundary. -/
theorem test_witness_illegal :
    bitsAt 0x00000000#32 8 0 = 0 ∧ 0x0D ≤ bitsAt 0x0000000D#32 8 0 ∧ bitsAt 0x00000801#32 21 11 ≠ 0 ∧
    (bitsAt 0x00000102#32 8 0 = 2 ∧ testBit 0x00000102#32 8 = true) ∧
    (bitsAt 0x00000103#32 8 0 = 3 ∧ testBit 0x00000103#32 8 = true) ∧
    (bitsAt 0x00000201#32 8 0 ≠ 4 ∧ bitsAt 0x00000201#32 8 0 ≠ 6 ∧ bitsAt 0x00000201#32 2 9 ≠ 0) ∧
    (bitsAt 0x00000404#32 8 0 = 4 ∧ testBit 0x00000404#32 10 = true) ∧
    testBit ((issuing 0x00000000#32).reg .status) 0 = false := by decide +kernel

/-- HostWriteReachesOperandsOnly and HostReadAnswersRegister: a writable, a read-only and a reserved
index. -/
theorem test_witness_host :
    (∀ i ∈ ([36, 37, 40, 44, 45, 73, 74, 127] : List (Fin 128)),
      steps { State.reset with host := [.write i 5] } = true ∧
      steps { State.reset with host := [.read i] } = true) ∧
    testBit (State.reset.reg .status) 0 = false := by decide +kernel

/-- BusyCoreRefusesHost: a state that no run reaches, with BUSY set. -/
theorem test_witness_busy : testBit ((st [(.status, 1)]).reg .status) 0 = true := by decide +kernel

/-- CoreNeverStopsUnlessBusy, both clauses. -/
theorem test_witness_idle :
    testBit (State.reset.reg .status) 0 = false ∧ State.reset.host = [] := by decide +kernel

/-- HostResetTouchesCoreOnly. -/
theorem test_witness_reset :
    ({ State.reset with host := [.reset] } : State).host = .reset :: [] := by decide +kernel

/-- A state after a SETBASE, whose host issues GAINCLS next. -/
def running : State :=
  { st [(.curfb .primary, 9), (.fbHandle, 9), (.status, 2), (.pwr .secondary, 0)] with
    dr := [(5, 0x00400000#32), (6, 0x00000400#32)]
    pins := [(9, 1)]
    palettePri := 1
    trace := [.palette .primary, .pin 9 (.ok 0x00400000#32 0), .wr .dr 5 0x00400000#32,
      .wr .dr 6 0x00000400#32]
    host := [.issue 0x00000002#32] }

theorem running_storage : storageLegal running := by
  refine ⟨by decide +kernel, by decide +kernel, by decide +kernel, ?_, ?_⟩ <;> decide +kernel

theorem running_status : statusLegal running := ⟨by decide +kernel, by decide +kernel⟩

theorem running_results : resultsLegal running := by
  refine ⟨fun c => by cases c <;> decide +kernel, ?_⟩
  unfold timingLegal stretchLegal overridesLegal
  decide +kernel

theorem running_trace : traceLegal running := by
  refine ⟨?_, by decide +kernel, by decide +kernel⟩
  intro e he
  simp only [running, List.mem_cons, List.not_mem_nil, or_false] at he
  rcases he with rfl | rfl | rfl | rfl
  · trivial
  · trivial
  · exact ⟨rfl, by decide⟩
  · exact ⟨rfl, by decide⟩

theorem running_pinned : scanoutPinned running := by
  intro h hh
  have h1 : running.reg (.curfb .primary) = 9#32 := by decide +kernel
  have h2 : running.reg (.curfb .secondary) = 0#32 := by decide +kernel
  have h0 : ¬ (0#32 = h) := fun e => hh e.symm
  unfold scannedBy
  rw [h1, h2, if_neg h0]
  by_cases e : 9#32 = h
  · subst e; decide +kernel
  · simp [e]

/-- StepKeepsStorageLegal, StepKeepsStatusLegal, StepKeepsResultsLegal, StepKeepsTraceLegal,
StepKeepsScanoutPinned and StepKeepsInvariant: a state with a pin, a trace and written registers that
meets the invariant and steps on. -/
theorem test_witness_invariant : Inv running ∧ steps running = true :=
  ⟨⟨running_storage, running_status, running_results, running_trace, running_pinned⟩, by decide +kernel⟩

/-- BusReadAnswers, BusRmwAnswers, DpmssetWritesCtl, and the `Answers` clauses: a register that holds a value, and one that holds none. -/
theorem test_witness_held :
    running.held .dr 5 = some 0x00400000#32 ∧ running.held .dr 0 = none := by decide +kernel

/-- GainMonotoneInVco: the guard, and equal VCO values at the boundary of the comparison. -/
theorem test_witness_gain :
    (st []).regNat .gRef = 0 ∧
    (st [(.gReffreq, 27000), (.gRef, 9), (.gFb, 100)]).regNat .gRef ≠ 0 ∧
    (st [(.gReffreq, 27000), (.gRef, 9), (.gFb, 100)]).regNat .gReffreq * 100 / 9 ≤ 300000 := by
  decide +kernel

/-- PllsolvePicksLeastCandidate: a candidate at both ends of the ranges, with and without the
override. -/
theorem test_witness_candidate :
    IsCandidate (st descA) .primary 2 3 7 16 ∧ IsCandidate (st descA) .primary 1 1 0 1 ∧
    IsCandidate (st (descA ++ [(.fSolve, 0xC)])) .primary 0 1 1 2 := by
  unfold IsCandidate; decide +kernel

/-- PllsolveNoCandidate: each disjunct at its boundary. -/
theorem test_witness_no_candidate :
    (testBit ((st []).reg .fSolve) 2 = false ∧ (st []).regNat (.dMaxref .primary) = 0) ∧
    (st [(.dMinfb .primary, 5), (.dMaxfb .primary, 4)]).regNat (.dMaxfb .primary) <
      (st [(.dMinfb .primary, 5), (.dMaxfb .primary, 4)]).regNat (.dMinfb .primary) := by
  decide +kernel

/-- PllsolveDependsOnOperandsOnly: two different states that agree on the operands. -/
theorem test_witness_same_operands :
    (∀ r ∈ [Reg.mClock, .dReffreq .primary, .dMaxref .primary, .dMinfb .primary, .dMaxfb .primary,
      .dRefovr .primary], (st descA).reg r = (st (descA ++ [(.fSolve, 0x10), (.caps, 1)])).reg r) ∧
    bitsAt ((st descA).reg .fSolve) 4 0 =
      bitsAt ((st (descA ++ [(.fSolve, 0x10), (.caps, 1)])).reg .fSolve) 4 0 := by decide +kernel

/-- ScalcompFallback: each of the three reasons. -/
theorem test_witness_fallback :
    (st [(.pH, 800), (.sPolicy, 3)]).regNat .pW = 0 ∧ (st [(.pW, 1280), (.sPolicy, 1)]).regNat .pH = 0 ∧
    policyNum (st [(.pW, 1280), (.pH, 800), (.sPolicy, 4)]) = 0 := by decide +kernel

/-- ScalcompStretch and ScalcompCenter: the three policies with a panel. -/
theorem test_witness_panel :
    (st [(.pW, 1), (.pH, 1), (.sPolicy, 1)]).regNat .pW ≠ 0 ∧
    (st [(.pW, 1), (.pH, 1), (.sPolicy, 1)]).regNat .pH ≠ 0 ∧
    policyNum (st [(.pW, 1), (.pH, 1), (.sPolicy, 1)]) = 1 ∧
    policyNum (st [(.pW, 1), (.pH, 1), (.sPolicy, 6)]) = 2 ∧
    policyNum (st [(.pW, 1), (.pH, 1), (.sPolicy, 7)]) = 3 := by decide +kernel

/-- StretchWordInvariants: an axis one pixel short of the panel is enabled (43_scaler.md R153 (e)), an
equal axis is not, and there is no panel. -/
theorem test_witness_stretch :
    testBit ((after .scalcomp (st [(.mHdisp, 1279), (.mVdisp, 799), (.pW, 1280), (.pH, 800), (.sPolicy, 1),
      (.scHcur, 0x8000)])).reg .scHstr) 13 = true ∧
    testBit ((after .scalcomp (st [(.mHdisp, 1279), (.mVdisp, 799), (.pW, 1280), (.pH, 800),
      (.sPolicy, 1)])).reg .scVstr) 13 = true ∧
    testBit ((after .scalcomp (st [(.mHdisp, 1280), (.mVdisp, 799), (.pW, 1280), (.pH, 800),
      (.sPolicy, 1)])).reg .scHstr) 13 = false ∧
    (st [(.pH, 800)]).regNat .pW = 0 := by decide +kernel

/-- The registers of 10_state.md R27 (a) to (d) at the low ends. -/
def lowMode : State :=
  st [(.mHdisp, 8), (.mHtotal, 8), (.mHss, 8), (.mHse, 8), (.mVdisp, 1), (.mVtotal, 1), (.mVss, 1), (.mVse, 1)]

/-- The same at the high ends. -/
def highMode : State :=
  st [(.mHdisp, 4103), (.mHtotal, 8199), (.mHss, 8199), (.mHse, 8710), (.mVdisp, 65536), (.mVtotal, 65536),
    (.mVss, 4096), (.mVse, 4127)]

/-- TimpackRoundTrip: the hypotheses at both ends of every range. -/
theorem test_witness_round_trip :
    ∀ s ∈ [lowMode, highMode],
      8 ≤ s.regNat .mHtotal ∧ s.regNat .mHtotal ≤ 8199 ∧ 8 ≤ s.regNat .mHdisp ∧
      s.regNat .mHdisp ≤ 4103 ∧ 8 ≤ s.regNat .mHss ∧ s.regNat .mHss ≤ 8199 ∧
      s.regNat .mHss ≤ s.regNat .mHse ∧ (s.regNat .mHse - s.regNat .mHss) / 8 ≤ 63 ∧
      1 ≤ s.regNat .mVtotal ∧ s.regNat .mVtotal ≤ 65536 ∧ 1 ≤ s.regNat .mVdisp ∧
      s.regNat .mVdisp ≤ 65536 ∧ 1 ≤ s.regNat .mVss ∧ s.regNat .mVss ≤ 4096 ∧
      s.regNat .mVss ≤ s.regNat .mVse ∧ s.regNat .mVse - s.regNat .mVss ≤ 31 := by decide +kernel

/-- The round trip at the high ends, where every field is full (44_timing_packer.md R176). -/
theorem test_round_trip_high :
    tp (after (.timpack .primary .std) highMode) = [0x01FF03FF, 0x003F1FFF, 0xFFFFFFFF, 0x001F0FFF, 0] := by
  decide +kernel

/-- SetbaseUnsupportedFormat: codes beside the supported ones. -/
theorem test_witness_format :
    ∀ f ∈ [0, 7, 9, 14, 17, 25, 33], (st [(.fbFormat, f)]).regNat .fbFormat ∉ [8, 15, 16, 24, 32] := by
  decide +kernel

/-- PinFailureAbortsUntouched, and the first clause of the hypothesis of ModesetIsFiveSteps. -/
theorem test_witness_pin_fails :
    (st [(.fbFormat, 15)]).regNat .fbFormat ∈ [8, 15, 16, 24, 32] ∧
    ({ st [(.fbFormat, 15)] with pinDraws := [.fail] } : State).nextPin = .fail := by decide +kernel

/-- SetbaseProgramsBase: every format; a linear and a tiled buffer; no, the same and a different previous
buffer. -/
theorem test_witness_setbase :
    (∀ p ∈ [(8, 1), (15, 2), (16, 2), (24, 3), (32, 4)], (st [(.fbFormat, p.1)]).regNat .fbFormat = p.1) ∧
    ({ st baseOps with pinDraws := [.ok 1 0] } : State).nextPin = .ok 1 0 ∧
    ({ st baseOps with pinDraws := [.ok 1 5] } : State).nextPin = .ok 1 5 ∧
    (st [(.fbHandle, 9)]).reg (.curfb .primary) = 0 ∧
    (st [(.fbHandle, 9), (.curfb .primary, 9)]).reg (.curfb .primary) = 9 ∧
    (st baseOps).reg (.curfb .primary) = 7 := by decide +kernel

/-- PllprogWritesSolution, PllprogPowerSensitivePaths and PllprogIsSolveCommitDelay: both values of
HONOR_PRESUPPLIED and of POWER_SENSITIVE; a bank that matches (47_modeset.md R251 (2)) and one that does
not (R251 (3)). -/
theorem test_witness_pllprog :
    testBit ((st honourOps).reg .fSolve) 4 = true ∧ testBit ((st descA).reg .fSolve) 4 = false ∧
    testBit ((st honourOps).reg .caps) 0 = true ∧ testBit ((st descA).reg .caps) 0 = false ∧
    (after (.pllprog .primary) { st honourOps with pr := bank, readDraws := [0, 0, 0] }).reg .status =
      0x00000102#32 ∧
    (after (.pllprog .primary)
      { st honourOps with pr := [(0, 9#32), (1, 0x00020040#32)],
                          readDraws := List.replicate 9 0 }).reg .status = 0x00000002#32 := by
  decide +kernel

/-- ScalprogPrimaryProgramsScaler with overrides, and ScalprogSecondaryTestsPolicy, both clauses. -/
theorem test_witness_scalprog :
    (after (.scalprog .primary)
      { st [(.pW, 1280), (.pH, 800), (.sPolicy, 3)] with
        readDraws := List.replicate 5 0 }).reg .scOvr = 1 ∧
    policyNum (st [(.sPolicy, 4)]) = 0 ∧ policyNum (st [(.sPolicy, 1)]) ≠ 0 := by decide +kernel

/-- ModesetIsFiveSteps: an unsupported format, and a pin that succeeds; ModesetOutcomes: the scaling
error. -/
theorem test_witness_modeset :
    (st [(.fbFormat, 4)]).regNat .fbFormat ∉ [8, 15, 16, 24, 32] ∧
    ({ st [(.fbFormat, 8)] with pinDraws := [.ok 0 0] } : State).nextPin ≠ .fail ∧
    policyNum (st modesetOps) ≠ 0 := by decide +kernel

/-- OperandsNeverWritten: the ends of the index ranges. -/
theorem test_witness_operands :
    (Reg.index .mHdisp).val = 0 ∧ (Reg.index (.dRefovr .primary)).val = 36 ∧
    (Reg.index (.dReffreq .secondary)).val = 40 ∧ (Reg.index (.dRefovr .secondary)).val = 44 := by
  decide

/-- PerControllerStateOwners: each owner changes its register. -/
theorem test_witness_owners :
    (after (.dpmsset .primary .on) { State.reset with readDraws := [0] }).reg (.pwr .primary) ≠
      State.reset.reg (.pwr .primary) ∧
    (after (.setbase .primary) { st baseOps with pinDraws := [.ok 0 0] }).reg (.curfb .primary) ≠
      (st baseOps).reg (.curfb .primary) ∧
    (after (.scalprog .primary) { st [(.sPolicy, 1)] with readDraws := List.replicate 5 0 }).reg
      (.curpol .primary) ≠ (st [(.sPolicy, 1)]).reg (.curpol .primary) := by decide +kernel

/-- OtherControllerUntouched: a command of the secondary that gives a next state. -/
theorem test_witness_controller :
    ctrlOf (.bwnotify .secondary) = some .secondary ∧ inBlock (other .secondary) .dr 0x3F ∧
    inBlock (other .secondary) .pr 0x0F ∧ inBlock (other .primary) .dr 0x40 ∧
    (match exec (.bwnotify .secondary) State.reset with
      | .next t => t.trace == [.bw .secondary 0]
      | .fault _ => false
      | .refused _ => false) = true := by
  unfold inBlock; decide +kernel

end Sys2Proof.Tests
end

section
/-! The encoding (30_encoding.md R93, R97, R98): the four fields determine a command word, the decoder
reads exactly the fields `Instr.raw` of an instruction, and everything else it answers is illegal. -/

namespace Sys2Proof.Proofs.Encoding

open Sys2Proof Sys2Proof.Machine Sys2Proof.Safety Sys2Proof.Laws

/-! ### The fields of a command word as bits and numbers -/

theorem rawOfWord_opc_toNat (w : Word) : (rawOfWord w).opc.toNat = bitsAt w 8 0 := by
  simp [rawOfWord, bitsAt]

theorem rawOfWord_c_toNat (w : Word) : (rawOfWord w).c.toNat = bitsAt w 1 8 := by
  simp [rawOfWord, bitsAt, Nat.shiftRight_eq_div_pow]

theorem rawOfWord_arg_toNat (w : Word) : (rawOfWord w).arg.toNat = bitsAt w 2 9 := by
  simp [rawOfWord, bitsAt, Nat.shiftRight_eq_div_pow]

theorem rawOfWord_zero_toNat (w : Word) : (rawOfWord w).zero.toNat = bitsAt w 21 11 := by
  simp [rawOfWord, bitsAt, Nat.shiftRight_eq_div_pow]

/-- The four fields cover the word. -/
theorem rawOfWord_injective : Function.Injective rawOfWord := by
  intro v w h
  have hopc : bitsAt v 8 0 = bitsAt w 8 0 := by rw [← rawOfWord_opc_toNat, h, rawOfWord_opc_toNat]
  have hc : bitsAt v 1 8 = bitsAt w 1 8 := by rw [← rawOfWord_c_toNat, h, rawOfWord_c_toNat]
  have harg : bitsAt v 2 9 = bitsAt w 2 9 := by rw [← rawOfWord_arg_toNat, h, rawOfWord_arg_toNat]
  have hzero : bitsAt v 21 11 = bitsAt w 21 11 := by
    rw [← rawOfWord_zero_toNat, h, rawOfWord_zero_toNat]
  simp only [bitsAt] at hopc hc harg hzero
  apply BitVec.eq_of_toNat_eq
  omega

/-- A mask acts on each field by itself. -/
theorem rawOfWord_and (w m : Word) :
    rawOfWord (w &&& m) =
      ⟨(rawOfWord w).opc &&& (rawOfWord m).opc, (rawOfWord w).c &&& (rawOfWord m).c,
        (rawOfWord w).arg &&& (rawOfWord m).arg, (rawOfWord w).zero &&& (rawOfWord m).zero⟩ := by
  simp [rawOfWord, BitVec.extractLsb'_and]

/-- A word below 256 is an opcode with every other field 0. -/
theorem rawOfWord_setWidth (k : BitVec 8) : rawOfWord (k.setWidth 32) = ⟨k, 0, 0, 0⟩ := by
  have hk := k.isLt
  simp only [rawOfWord, RawCmd.mk.injEq]
  refine ⟨?_, ?_, ?_, ?_⟩ <;> apply BitVec.eq_of_toNat_eq <;>
    simp [Nat.shiftRight_eq_div_pow] <;> omega

/-- A row of the opcode map is a condition on each field of the word (30_encoding.md R97). -/
theorem and_eq_setWidth_iff (w m : Word) (k : BitVec 8) :
    w &&& m = k.setWidth 32 ↔
      (rawOfWord w).opc &&& (rawOfWord m).opc = k ∧ (rawOfWord w).c &&& (rawOfWord m).c = 0 ∧
      (rawOfWord w).arg &&& (rawOfWord m).arg = 0 ∧
      (rawOfWord w).zero &&& (rawOfWord m).zero = 0 := by
  rw [← rawOfWord_injective.eq_iff, rawOfWord_and, rawOfWord_setWidth, RawCmd.mk.injEq]

/-! The masks keep `allOnes` as it is in the lemmas below (`-BitVec.reduceAllOnes`), so that
`BitVec.and_allOnes` can drop it. -/

theorem rawOfWord_ctrlMask :
    rawOfWord 0xFFFFFEFF#32 = ⟨.allOnes 8, 0, .allOnes 2, .allOnes 21⟩ := by decide
theorem rawOfWord_timpackMask :
    rawOfWord 0xFFFFFCFF#32 = ⟨.allOnes 8, 0, 2, .allOnes 21⟩ := by decide
theorem rawOfWord_dpmssetMask :
    rawOfWord 0xFFFFF8FF#32 = ⟨.allOnes 8, 0, 0, .allOnes 21⟩ := by decide

/-- The mask of a row that leaves C open. -/
theorem and_ctrlMask_iff (w : Word) (k : BitVec 8) :
    w &&& 0xFFFFFEFF#32 = k.setWidth 32 ↔
      (rawOfWord w).opc = k ∧ (rawOfWord w).arg = 0 ∧ (rawOfWord w).zero = 0 := by
  simp only [and_eq_setWidth_iff, rawOfWord_ctrlMask, -BitVec.reduceAllOnes, BitVec.and_allOnes,
    BitVec.ofNat_eq_ofNat, BitVec.and_zero, true_and]

/-- The mask of a row that leaves nothing open. -/
theorem and_plainMask_iff (w : Word) (k : BitVec 8) :
    w &&& 0xFFFFFFFF#32 = k.setWidth 32 ↔ rawOfWord w = ⟨k, 0, 0, 0⟩ := by
  have hmask : (0xFFFFFFFF#32 : Word) = BitVec.allOnes 32 := rfl
  rw [hmask, BitVec.and_allOnes, ← rawOfWord_injective.eq_iff, rawOfWord_setWidth]

/-- The mask of TIMPACK leaves C and ARG[0] open. -/
theorem and_timpackMask_iff (w : Word) (k : BitVec 8) :
    w &&& 0xFFFFFCFF#32 = k.setWidth 32 ↔
      (rawOfWord w).opc = k ∧ (rawOfWord w).arg &&& 2 = 0 ∧ (rawOfWord w).zero = 0 := by
  simp only [and_eq_setWidth_iff, rawOfWord_timpackMask, -BitVec.reduceAllOnes, BitVec.and_allOnes,
    BitVec.ofNat_eq_ofNat, BitVec.and_zero, true_and]

/-- The mask of DPMSSET leaves C and ARG open. -/
theorem and_dpmssetMask_iff (w : Word) (k : BitVec 8) :
    w &&& 0xFFFFF8FF#32 = k.setWidth 32 ↔ (rawOfWord w).opc = k ∧ (rawOfWord w).zero = 0 := by
  simp only [and_eq_setWidth_iff, rawOfWord_dpmssetMask, -BitVec.reduceAllOnes, BitVec.and_allOnes,
    BitVec.ofNat_eq_ofNat, BitVec.and_zero, true_and]

/-! ### The C and ARG bits name every controller, variant and level once -/

theorem ofNat_num_ctrlOfBit (b : BitVec 1) : BitVec.ofNat 1 (ctrlOfBit b).num = b := by
  revert b; decide

theorem ofNat_num_levelOfArg (a : BitVec 2) : BitVec.ofNat 2 (levelOfArg a).num = a := by
  revert a; decide

theorem ctrlOfBit_ofNat_num (c : Ctrl) : ctrlOfBit (BitVec.ofNat 1 c.num) = c := by
  cases c <;> rfl

/-- ARG[1] is 0 exactly on the two words that stand for a variant. -/
theorem arg_and_two_eq_zero_iff (a : BitVec 2) :
    a &&& 2 = 0 ↔ ∃ v : Variant, a = BitVec.ofNat 2 v.num := by
  constructor
  · intro h
    have ha : a = 0 ∨ a = 1 := by revert a; decide
    obtain rfl | rfl := ha
    · exact ⟨.std, rfl⟩
    · exact ⟨.center, rfl⟩
  · rintro ⟨v, rfl⟩
    cases v <;> rfl

/-! ### The decoder reads the fields of the instruction and nothing else -/

/-- Every instruction's fields decode to it. -/
theorem decodeRaw_raw (i : Instr) : decodeRaw i.raw = .instr i := by
  cases i with
  | gaincls => rfl
  | scalcomp => rfl
  | timpack c v => cases c <;> cases v <;> rfl
  | dpmsset c l => cases c <;> cases l <;> rfl
  | _ c => cases c <;> rfl

theorem decodeCtrl_eq_instr {r : RawCmd} {f : Ctrl → Instr} {i : Instr}
    (h : decodeCtrl r f = .instr i) : r.arg = 0 ∧ i = f (ctrlOfBit r.c) := by
  unfold decodeCtrl at h
  split at h
  · next ha => exact ⟨ha, (Decoded.instr.inj h).symm⟩
  · nomatch h

theorem decodePlain_eq_instr {r : RawCmd} {i j : Instr} (h : decodePlain r j = .instr i) :
    r.c = 0 ∧ r.arg = 0 ∧ i = j := by
  unfold decodePlain at h
  split at h
  · nomatch h
  · next hc =>
    split at h
    · nomatch h
    · next ha => exact ⟨not_not.mp hc, not_not.mp ha, (Decoded.instr.inj h).symm⟩

theorem decodeTimpack_eq_instr {r : RawCmd} {i : Instr} (h : decodeTimpack r = .instr i) :
    ∃ v : Variant, r.arg = BitVec.ofNat 2 v.num ∧ i = .timpack (ctrlOfBit r.c) v := by
  unfold decodeTimpack at h
  split at h
  · next ha => exact ⟨.std, ha, (Decoded.instr.inj h).symm⟩
  · split at h
    · next ha => exact ⟨.center, ha, (Decoded.instr.inj h).symm⟩
    · nomatch h

/-- The fields of a row whose command takes C and has ARG 0 are those of its instruction. -/
theorem eq_raw_of_decodeCtrl {r : RawCmd} {f : Ctrl → Instr} {i : Instr} (k : BitVec 8)
    (hf : ∀ c, (f c).raw = ⟨k, BitVec.ofNat 1 c.num, 0, 0⟩) (hk : r.opc.toNat = k.toNat)
    (hz : r.zero = 0) (h : decodeCtrl r f = .instr i) : r = i.raw := by
  obtain ⟨ha, rfl⟩ := decodeCtrl_eq_instr h
  rw [hf, ofNat_num_ctrlOfBit, ← BitVec.eq_of_toNat_eq hk, ← ha, ← hz]

/-- The fields of a row whose command takes neither C nor ARG are those of its instruction. -/
theorem eq_raw_of_decodePlain {r : RawCmd} {i j : Instr} (k : BitVec 8)
    (hj : j.raw = ⟨k, 0, 0, 0⟩) (hk : r.opc.toNat = k.toNat)
    (hz : r.zero = 0) (h : decodePlain r j = .instr i) : r = i.raw := by
  obtain ⟨hc, ha, rfl⟩ := decodePlain_eq_instr h
  rw [hj, ← BitVec.eq_of_toNat_eq hk, ← hc, ← ha, ← hz]

theorem eq_raw_of_decodeTimpack {r : RawCmd} {i : Instr} (hk : r.opc.toNat = (4#8).toNat)
    (hz : r.zero = 0) (h : decodeTimpack r = .instr i) : r = i.raw := by
  obtain ⟨v, ha, rfl⟩ := decodeTimpack_eq_instr h
  rw [Instr.raw, ofNat_num_ctrlOfBit, ← ha, ← hz]
  exact congrArg (RawCmd.mk · r.c r.arg r.zero) (BitVec.eq_of_toNat_eq hk)

theorem eq_raw_of_dpmsset {r : RawCmd} (hk : r.opc.toNat = (6#8).toNat) (hz : r.zero = 0) :
    r = (Instr.dpmsset (ctrlOfBit r.c) (levelOfArg r.arg)).raw := by
  rw [Instr.raw, ofNat_num_ctrlOfBit, ofNat_num_levelOfArg, ← hz]
  exact congrArg (RawCmd.mk · r.c r.arg r.zero) (BitVec.eq_of_toNat_eq hk)

/-- Fields that decode to an instruction are the instruction's fields. -/
theorem eq_raw_of_decodeRaw {r : RawCmd} {i : Instr} (h : decodeRaw r = .instr i) : r = i.raw := by
  unfold decodeRaw at h
  split at h
  · nomatch h
  next hz =>
  have hz := not_not.mp hz
  split at h
  · next hk => exact eq_raw_of_decodeCtrl 1 (fun _ => rfl) hk hz h
  · next hk => exact eq_raw_of_decodePlain 2 rfl hk hz h
  · next hk => exact eq_raw_of_decodePlain 3 rfl hk hz h
  · next hk => exact eq_raw_of_decodeTimpack hk hz h
  · next hk => exact eq_raw_of_decodeCtrl 5 (fun _ => rfl) hk hz h
  · next hk => exact Decoded.instr.inj h ▸ eq_raw_of_dpmsset hk hz
  · next hk => exact eq_raw_of_decodeCtrl 7 (fun _ => rfl) hk hz h
  · next hk => exact eq_raw_of_decodeCtrl 8 (fun _ => rfl) hk hz h
  · next hk => exact eq_raw_of_decodeCtrl 9 (fun _ => rfl) hk hz h
  · next hk => exact eq_raw_of_decodeCtrl 10 (fun _ => rfl) hk hz h
  · next hk => exact eq_raw_of_decodeCtrl 11 (fun _ => rfl) hk hz h
  · next hk => exact eq_raw_of_decodeCtrl 12 (fun _ => rfl) hk hz h
  · nomatch h

/-- A word decodes to an instruction exactly when its fields are the instruction's. -/
theorem decode_eq_instr_iff (w : Word) (i : Instr) : decode w = .instr i ↔ rawOfWord w = i.raw :=
  ⟨eq_raw_of_decodeRaw, fun h => by rw [decode, h, decodeRaw_raw]⟩

/-! ### The rows of the opcode map -/

/-- A row whose command takes C and has ARG 0 (30_encoding.md R97). -/
theorem ctrlRow_iff (w : Word) (f : Ctrl → Instr) (k : BitVec 8)
    (hf : ∀ c, (f c).raw = ⟨k, BitVec.ofNat 1 c.num, 0, 0⟩) :
    (∃ c, decode w = .instr (f c)) ↔ w &&& 0xFFFFFEFF#32 = k.setWidth 32 := by
  simp only [and_ctrlMask_iff, decode_eq_instr_iff, hf]
  obtain ⟨opc, c, arg, zero⟩ := rawOfWord w
  constructor
  · rintro ⟨d, h⟩
    obtain ⟨hk, -, ha, hz⟩ := RawCmd.mk.inj h
    exact ⟨hk, ha, hz⟩
  · rintro ⟨rfl, rfl, rfl⟩
    exact ⟨ctrlOfBit c, by rw [ofNat_num_ctrlOfBit]⟩

/-- A row whose command takes neither C nor ARG (30_encoding.md R97). -/
theorem plainRow_iff (w : Word) (i : Instr) (k : BitVec 8) (hi : i.raw = ⟨k, 0, 0, 0⟩) :
    decode w = .instr i ↔ w &&& 0xFFFFFFFF#32 = k.setWidth 32 := by
  rw [and_plainMask_iff, decode_eq_instr_iff, hi]

/-- The row of TIMPACK, whose variant is ARG[0] (30_encoding.md R97). -/
theorem timpackRow_iff (w : Word) :
    (∃ c v, decode w = .instr (.timpack c v)) ↔ w &&& 0xFFFFFCFF#32 = (4#8).setWidth 32 := by
  simp only [and_timpackMask_iff, decode_eq_instr_iff, arg_and_two_eq_zero_iff, Instr.raw]
  obtain ⟨opc, c, arg, zero⟩ := rawOfWord w
  constructor
  · rintro ⟨d, v, h⟩
    obtain ⟨hk, -, ha, hz⟩ := RawCmd.mk.inj h
    exact ⟨hk, ⟨v, ha⟩, hz⟩
  · rintro ⟨rfl, ⟨v, rfl⟩, rfl⟩
    exact ⟨ctrlOfBit c, v, by rw [ofNat_num_ctrlOfBit]; rfl⟩

/-- The row of DPMSSET, whose level is ARG (30_encoding.md R97). -/
theorem dpmssetRow_iff (w : Word) :
    (∃ c l, decode w = .instr (.dpmsset c l)) ↔ w &&& 0xFFFFF8FF#32 = (6#8).setWidth 32 := by
  simp only [and_dpmssetMask_iff, decode_eq_instr_iff, Instr.raw]
  obtain ⟨opc, c, arg, zero⟩ := rawOfWord w
  constructor
  · rintro ⟨d, l, h⟩
    obtain ⟨hk, -, -, hz⟩ := RawCmd.mk.inj h
    exact ⟨hk, hz⟩
  · rintro ⟨rfl, rfl⟩
    exact ⟨ctrlOfBit c, levelOfArg arg,
      by rw [ofNat_num_ctrlOfBit, ofNat_num_levelOfArg]; rfl⟩

/-! ### The operands of a decoded word -/

/-- C of an instruction that takes a controller is that controller's bit (30_encoding.md R94). -/
theorem raw_c_of_ctrlOf {i : Instr} {c : Ctrl} (h : ctrlOf i = some c) :
    i.raw.c = BitVec.ofNat 1 c.num := by
  cases i with
  | gaincls => nomatch h
  | scalcomp => nomatch h
  | _ => obtain rfl := Option.some.inj h; rfl

theorem ctrlOfBit_rawOfWord (w : Word) :
    ctrlOfBit (rawOfWord w).c = if testBit w 8 then .secondary else .primary := by
  rw [testBit_eq, ← rawOfWord_c_toNat]
  generalize (rawOfWord w).c = b
  revert b; decide

/-- The controller of a command word is bit 8. -/
theorem ctrlOf_of_decode {w : Word} {i : Instr} (h : decode w = .instr i) :
    ctrlOf i = none ∨ ctrlOf i = some (if testBit w 8 then .secondary else .primary) := by
  cases hc : ctrlOf i with
  | none => exact .inl rfl
  | some c =>
    right
    rw [← ctrlOfBit_rawOfWord, (decode_eq_instr_iff w i).mp h, raw_c_of_ctrlOf hc,
      ctrlOfBit_ofNat_num]

/-- The variant of a TIMPACK word is bit 9. -/
theorem variant_of_decode {w : Word} {c : Ctrl} {v : Variant}
    (h : decode w = .instr (.timpack c v)) : v = if testBit w 9 then .center else .std := by
  have harg : (rawOfWord w).arg = BitVec.ofNat 2 v.num :=
    congrArg RawCmd.arg ((decode_eq_instr_iff w _).mp h)
  have hbit : testBit w 9 = (rawOfWord w).arg.getLsbD 0 := by simp [testBit, rawOfWord]
  rw [hbit, harg]
  cases v <;> rfl

/-- The level of a DPMSSET word is bits 10:9. -/
theorem level_of_decode {w : Word} {c : Ctrl} {l : Level}
    (h : decode w = .instr (.dpmsset c l)) : bitsAt w 2 9 = levelArg l := by
  have harg : (rawOfWord w).arg = BitVec.ofNat 2 l.num :=
    congrArg RawCmd.arg ((decode_eq_instr_iff w _).mp h)
  rw [← rawOfWord_arg_toNat, harg]
  cases l <;> rfl

/-- Settles O4: row by row, each mask taken apart into the four fields. -/
theorem decodeFollowsOpcodeMap : Obligations.DecodeFollowsOpcodeMap := by
  intro w
  refine ⟨ctrlRow_iff w .pllsolve 1#8 fun _ => rfl, plainRow_iff w .gaincls 2#8 rfl,
    plainRow_iff w .scalcomp 3#8 rfl, timpackRow_iff w, ctrlRow_iff w .pllcommit 5#8 fun _ => rfl,
    dpmssetRow_iff w, ctrlRow_iff w .modeset 7#8 fun _ => rfl,
    ctrlRow_iff w .setbase 8#8 fun _ => rfl, ctrlRow_iff w .timprog 9#8 fun _ => rfl,
    ctrlRow_iff w .pllprog 10#8 fun _ => rfl, ctrlRow_iff w .bwnotify 11#8 fun _ => rfl,
    ctrlRow_iff w .scalprog 12#8 fun _ => rfl, fun i hi => ⟨ctrlOf_of_decode hi, ?_, ?_⟩⟩
  · rintro c v rfl
    exact variant_of_decode hi
  · rintro c l rfl
    exact level_of_decode hi

/-! ### Illegal words -/

/-- The fields of a legal word (30_encoding.md R98), said of its bits. -/
theorem wf_rawOfWord_iff (w : Word) :
    (rawOfWord w).wf = true ↔
      (1 ≤ bitsAt w 8 0 ∧ bitsAt w 8 0 ≤ 12) ∧ bitsAt w 21 11 = 0 ∧
      ((bitsAt w 8 0 = 2 ∨ bitsAt w 8 0 = 3) → bitsAt w 1 8 = 0) ∧
      (bitsAt w 8 0 ≠ 6 → if bitsAt w 8 0 = 4 then bitsAt w 2 9 < 2 else bitsAt w 2 9 = 0) := by
  simp only [RawCmd.wf, RawCmd.opcOk, RawCmd.zeroOk, RawCmd.cOk, RawCmd.argOk, ← rawOfWord_opc_toNat,
    ← rawOfWord_c_toNat, ← rawOfWord_arg_toNat, ← rawOfWord_zero_toNat]
  generalize rawOfWord w = r
  by_cases h6 : r.opc.toNat = 6
  · simp [h6, ← BitVec.toNat_inj]
  · by_cases h4 : r.opc.toNat = 4
    · simp [h4, ← BitVec.toNat_inj]
    · simp [h6, h4, ← BitVec.toNat_inj, and_assoc, imp_iff_not_or]

/-- Bit 10 is the upper bit of ARG. -/
theorem two_le_arg_of_testBit {w : Word} (h : testBit w 10 = true) : 2 ≤ bitsAt w 2 9 := by
  rw [testBit_eq, beq_iff_eq] at h
  unfold bitsAt at *
  omega

/-- A word whose fields are not legal decodes to no instruction. -/
theorem decode_illegal_of_not_wf {w : Word} (h : ¬ (rawOfWord w).wf = true) :
    ∃ why, decode w = .illegal why := by
  cases hd : decode w with
  | illegal why => exact ⟨why, rfl⟩
  | instr i => exact absurd ((decode_eq_instr_iff w i).mp hd ▸ instr_wf i) h

/-- Issuing an illegal word while no command runs is the empty command that raises E_ILLEGAL. -/
theorem step_issue_illegal {s : State} {w : Word} {rest : List HostOp} {why : IllegalWord}
    (hhost : s.host = .issue w :: rest) (hidle : testBit (s.reg .status) 0 = false)
    (hw : decode w = .illegal why) : step s = .next (illegalCommand { s with host := rest }) := by
  have hpop : s.popHost = { s with host := rest } := by rw [State.popHost, hhost]; rfl
  have hbusy : ({ s with host := rest } : State).busy = false := hidle
  simp only [step, stepWith, hhost, hpop, hostStep, issueWord, hbusy, hw]
  rfl

/-- An illegal command leaves DONE and E_ILLEGAL in STATUS and 0 in PHASE (30_encoding.md R98). -/
theorem illegalCommand_ended (s : State) : Ended 0x00000082#32 (illegalCommand s) := by
  constructor
  · rw [illegalCommand, frame_reg, raise_does, reg_setReg_same, prologue_reg]
    simp only [if_pos]
    rfl
  · rw [illegalCommand, frame_reg]; rfl

/-- An illegal command touches STATUS and PHASE only. -/
theorem illegalCommand_pureOn (s : State) : PureOn [.status, .phase] s (illegalCommand s) := by
  obtain ⟨hregs, hheld, -⟩ := ran_frame (ran_raise statusEIllegal (prologue s))
  refine ⟨fun r hr => hregs r ?_, hheld, rfl⟩
  simpa using hr

/-- Settles O5: each clause of R98 breaks a field's legality, so the word decodes to no instruction. -/
theorem illegalWordOnlySetsFlag : Obligations.IllegalWordOnlySetsFlag := by
  intro s w rest hhost hidle hclause
  have hwf : ¬ (rawOfWord w).wf = true := by
    rw [wf_rawOfWord_iff]
    rintro ⟨⟨hone, htwelve⟩, hzero, hc, harg⟩
    rcases hclause with h | h | h | ⟨hplain, h⟩ | ⟨hne4, hne6, h⟩ | ⟨h4, h⟩
    · omega
    · omega
    · exact h hzero
    · rw [testBit_eq, hc hplain] at h
      nomatch h
    · have hnone := harg hne6
      rw [if_neg hne4] at hnone
      exact h hnone
    · have hlt := harg (by omega)
      rw [if_pos h4] at hlt
      exact absurd (two_le_arg_of_testBit h) (by omega)
  obtain ⟨why, hw⟩ := decode_illegal_of_not_wf hwf
  exact ⟨_, step_issue_illegal hhost hidle hw, illegalCommand_ended _, illegalCommand_pureOn _⟩

end Sys2Proof.Proofs.Encoding
end

section
/-! The PLL divider solver (41_pll_solver.md R110 to R118): the search list holds exactly the candidate
set, the search keeps a candidate of the least key, and PLLSOLVE writes its solution. The two orders of
keys are, on keys of one length, the lexicographic order of lists. -/

namespace Sys2Proof.Proofs.Solver

open Sys2Proof Sys2Proof.Machine Sys2Proof.Safety Sys2Proof.Laws

/-! ### The candidate set -/

theorem mem_postCandidates_iff (noOdd : Bool) (p i : Nat) :
    (p, i) ∈ postCandidates msc1 noOdd ↔
      msc1.postDivs[i]? = some p ∧ (noOdd = true → p % 2 = 0 ∨ p = 1) := by
  rw [postCandidates, List.mem_filter, List.mem_zipIdx_iff_getElem?]
  cases noOdd <;> simp

theorem mem_refCandidates_iff (d : PllDescriptor) (useOvr : Bool) (r : Nat) :
    r ∈ refCandidates d useOvr ↔
      if useOvr = true then r = d.refOvr else 1 ≤ r ∧ r ≤ d.maxRef := by
  cases useOvr
  · simp only [refCandidates, Bool.false_eq_true, if_false, List.mem_range'_1]
    omega
  · simp [refCandidates]

theorem mem_fbCandidates_iff (d : PllDescriptor) (f : Nat) :
    f ∈ fbCandidates d ↔ d.minFb ≤ f ∧ f ≤ d.maxFb := by
  rw [fbCandidates, List.mem_range'_1]
  omega

/-- `Cand = R × F × P`, each factor by itself (41_pll_solver.md R113). -/
theorem mem_candidates_iff (k : Config) (d : PllDescriptor) (fl : SolveFlags) (x : Candidate) :
    x ∈ candidates k d fl ↔
      x.r ∈ refCandidates d fl.useRefOvr ∧ x.f ∈ fbCandidates d ∧
        (x.p, x.i) ∈ postCandidates k fl.noOddPost := by
  simp only [candidates, List.mem_flatMap, List.mem_map]
  constructor
  · rintro ⟨r, hr, f, hf, ⟨p, i⟩, hp, rfl⟩
    exact ⟨hr, hf, hp⟩
  · rintro ⟨hr, hf, hp⟩
    exact ⟨x.r, hr, x.f, hf, (x.p, x.i), hp, rfl⟩

/-- The list that the search walks for the operands of a state. -/
def searchList (s : State) (c : Ctrl) : List Candidate :=
  candidates msc1 (s.descriptor c) (solveFlagsOf (s.reg .fSolve))

theorem mem_searchList_iff (s : State) (c : Ctrl) (x : Candidate) :
    x ∈ searchList s c ↔ IsCandidate s c x.r x.f x.i x.p := by
  rw [searchList, mem_candidates_iff, mem_refCandidates_iff, mem_fbCandidates_iff,
    mem_postCandidates_iff]
  rfl

/-! ### The order of keys -/

/-- On keys of one length the order of the rules is the library's order of lists. -/
theorem keyLe_iff_le {as bs : List Int} (h : as.length = bs.length) : KeyLe as bs ↔ as ≤ bs := by
  induction as generalizing bs with
  | nil => cases bs with
    | nil => simp [KeyLe]
    | cons b bs => nomatch h
  | cons a as ih =>
    cases bs with
    | nil => nomatch h
    | cons b bs =>
      rw [KeyLe, ih (Nat.succ.inj h), le_iff_lt_or_eq, le_iff_lt_or_eq, List.cons_lt_cons_iff,
        List.cons.injEq, and_or_left, or_assoc]

theorem keyLt_iff_lt {as bs : List Int} (h : as.length = bs.length) :
    keyLt as bs = true ↔ as < bs := by
  induction as generalizing bs with
  | nil => cases bs with
    | nil => simp [keyLt]
    | cons b bs => nomatch h
  | cons a as ih =>
    cases bs with
    | nil => nomatch h
    | cons b bs =>
      rw [List.cons_lt_cons_iff, ← ih (Nat.succ.inj h), keyLt]
      rcases lt_trichotomy a b with hab | hab | hab
      · simp [hab]
      · simp [hab]
      · simp [hab.not_gt, hab, hab.ne']

theorem absDiff_cast (a b : Nat) : (absDiff a b : Int) = |(a : Int) - b| := by
  rw [absDiff, Int.abs_eq_natAbs]
  omega

/-- The key that the search compares for the operands of a state. -/
def operandKey (s : State) (c : Ctrl) : Candidate → List Int :=
  candidateKey (s.regNat .mClock) (s.descriptor c).refFreq (solveFlagsOf (s.reg .fSolve))

theorem length_operandKey (s : State) (c : Ctrl) (x : Candidate) : (operandKey s c x).length = 6 :=
  rfl

/-- The search compares the key of the rules (41_pll_solver.md R116). -/
theorem operandKey_eq_searchKey (s : State) (c : Ctrl) (x : Candidate) :
    operandKey s c x = searchKey s c x.r x.f x.i x.p := by
  rw [operandKey, candidateKey, candidateError, absDiff_cast]
  rfl

theorem keyLe_of_operandKey_le {s : State} {c : Ctrl} {x y : Candidate}
    (h : operandKey s c x ≤ operandKey s c y) :
    KeyLe (searchKey s c x.r x.f x.i x.p) (searchKey s c y.r y.f y.i y.p) := by
  rw [operandKey_eq_searchKey, operandKey_eq_searchKey] at h
  exact (keyLe_iff_le (by rfl)).mpr h

/-! ### The search -/

theorem leastCandidate_mem (key : Candidate → List Int) (best : Candidate) (l : List Candidate) :
    leastCandidate key best l ∈ best :: l := by
  induction l generalizing best with
  | nil => exact List.mem_cons_self
  | cons x rest ih =>
    rw [leastCandidate]
    split
    · exact List.mem_cons_of_mem best (ih x)
    · rcases List.mem_cons.mp (ih best) with h | h
      · exact List.mem_cons.mpr (.inl h)
      · exact List.mem_cons_of_mem best (List.mem_cons_of_mem x h)

/-- The search keeps a candidate whose key is at most every key it has seen. -/
theorem key_leastCandidate_le {key : Candidate → List Int} {n : Nat}
    (hlen : ∀ x, (key x).length = n) (best : Candidate) (l : List Candidate) :
    ∀ y ∈ best :: l, key (leastCandidate key best l) ≤ key y := by
  induction l generalizing best with
  | nil =>
    intro y hy
    rw [List.mem_singleton.mp hy, leastCandidate]
  | cons x rest ih =>
    have hlt : keyLt (key x) (key best) = true ↔ key x < key best :=
      keyLt_iff_lt ((hlen x).trans (hlen best).symm)
    simp only [List.forall_mem_cons] at ih ⊢
    rw [leastCandidate]
    split
    · next h =>
      obtain ⟨hx, hrest⟩ := ih x
      exact ⟨hx.trans (hlt.mp h).le, hx, hrest⟩
    · next h =>
      obtain ⟨hbest, hrest⟩ := ih best
      exact ⟨hbest, hbest.trans (not_lt.mp (mt hlt.mpr h)), hrest⟩

/-! ### The fields of a solution -/

/-- The code of the entry of `POST_DIVS` at an index is the index (41_pll_solver.md R118). -/
theorem postCodeOf_of_getElem? {i p : Nat} (h : msc1.postDivs[i]? = some p) :
    postCodeOf msc1 p = i := by
  have hcodes : ∀ j : Fin msc1.postDivs.length, postCodeOf msc1 msc1.postDivs[j] = j := by decide
  obtain ⟨hi, rfl⟩ := List.getElem?_eq_some_iff.mp h
  exact hcodes ⟨i, hi⟩

theorem postDivs_bound {i p : Nat} (h : msc1.postDivs[i]? = some p) : i < 8 ∧ p ≤ 16 := by
  have hdivs : ∀ q ∈ msc1.postDivs, q ≤ 16 := by decide
  obtain ⟨hi, -⟩ := List.getElem?_eq_some_iff.mp h
  exact ⟨hi, hdivs p (List.mem_of_getElem? h)⟩

theorem gainOf_le (refFreq r f : Nat) : gainOf refFreq r f ≤ 7 := by
  unfold gainOf
  split_ifs <;> decide

/-- The solution that an entry of `POST_DIVS` gives with two dividers, in the formulas of the rules
(41_pll_solver.md R114, R115, R118). -/
theorem solutionOf_msc1 (refFreq : Nat) {x : Candidate} (h : msc1.postDivs[x.i]? = some x.p) :
    solutionOf msc1 refFreq x =
      ⟨x.r, x.f, 0, x.p, x.i, achievedOf refFreq x.r x.f x.p, gainOf refFreq x.r x.f⟩ := by
  rw [solutionOf, postCodeOf_of_getElem? h]
  rfl

/-- On a list of candidates that is not empty the solver answers one of the least key. -/
theorem solved_of_searchList_ne_nil {s : State} {c : Ctrl} (h : searchList s c ≠ []) :
    ∃ x ∈ searchList s c, (∀ y ∈ searchList s c, operandKey s c x ≤ operandKey s c y) ∧
      s.solved msc1 c = solutionOf msc1 (s.regNat (.dReffreq c)) x := by
  obtain ⟨first, rest, hlist⟩ := List.exists_cons_of_ne_nil h
  refine ⟨leastCandidate (operandKey s c) first rest, ?_, ?_, ?_⟩
  · exact hlist ▸ leastCandidate_mem (operandKey s c) first rest
  · exact hlist ▸ key_leastCandidate_le (length_operandKey s c) first rest
  · rw [searchList] at hlist
    rw [State.solved, solve, hlist]
    rfl

/-- With a candidate, the solution is that of a candidate of the least key (41_pll_solver.md R115,
R116). -/
theorem solved_of_candidate {s : State} {c : Ctrl} (h : ∃ r f i p, IsCandidate s c r f i p) :
    ∃ r f i p, IsCandidate s c r f i p ∧
      (∀ r' f' i' p', IsCandidate s c r' f' i' p' →
        KeyLe (searchKey s c r f i p) (searchKey s c r' f' i' p')) ∧
      s.solved msc1 c = ⟨r, f, 0, p, i, achievedOf (s.regNat (.dReffreq c)) r f p,
        gainOf (s.regNat (.dReffreq c)) r f⟩ := by
  obtain ⟨r, f, i, p, hcand⟩ := h
  have hmem := (mem_searchList_iff s c ⟨r, f, i, p⟩).mpr hcand
  obtain ⟨x, hx, hleast, hsolved⟩ := solved_of_searchList_ne_nil (List.ne_nil_of_mem hmem)
  have hxcand := (mem_searchList_iff s c x).mp hx
  refine ⟨x.r, x.f, x.i, x.p, hxcand, fun r' f' i' p' hc => ?_, ?_⟩
  · have hle := hleast ⟨r', f', i', p'⟩ ((mem_searchList_iff s c _).mpr hc)
    exact keyLe_of_operandKey_le (y := ⟨r', f', i', p'⟩) hle
  · obtain ⟨-, -, hpost, -⟩ := hxcand
    rw [hsolved, solutionOf_msc1 _ hpost]

/-- The dividers and the index of a candidate fit a register: r and f come from operand registers, i
and p from `POST_DIVS`. -/
theorem isCandidate_bounds {s : State} {c : Ctrl} {r f i p : Nat} (h : IsCandidate s c r f i p) :
    r < 2 ^ 32 ∧ f < 2 ^ 32 ∧ i < 8 ∧ p ≤ 16 := by
  obtain ⟨hr, ⟨-, hf⟩, hp, -⟩ := h
  refine ⟨?_, hf.trans_lt (BitVec.isLt _), postDivs_bound hp⟩
  split_ifs at hr with hovr
  · exact hr ▸ BitVec.isLt _
  · exact hr.2.trans_lt (BitVec.isLt _)

/-! ### The command -/

/-- The prologue leaves the operands of the solver as they are. -/
theorem solved_prologue (k : Config) (c : Ctrl) (s : State) :
    (prologue s).solved k c = s.solved k c := by
  simp [State.solved, State.descriptor, State.regNat, prologue_reg]

/-- A run goes on with a register write. -/
theorem ran_then_setRegNat {rs : List Reg} {s t : State} (h : Ran rs [] 0 [] s t) (r : Reg) (v : Nat) :
    Ran (rs ++ [r]) [] 0 [] s (t.setRegNat r v) :=
  ran_trans h (ran_setRegNat t r v)

theorem ran_writeSolution (q : PllSolution) (s : State) :
    Ran solRegs [] 0 [] s (writeSolution q s) := by
  have href := ran_setRegNat s .solRef q.ref
  have hfb := ran_then_setRegNat href .solFb q.fb
  have hfrac := ran_then_setRegNat hfb .solFrac q.frac
  have hpost := ran_then_setRegNat hfrac .solPost q.post
  have hpcode := ran_then_setRegNat hpost .solPcode q.pcode
  have hclk := ran_then_setRegNat hpcode .solClk q.clk
  exact ran_then_setRegNat hclk .solGain q.gain

/-- The result registers hold a solution (41_pll_solver.md R117). -/
def HoldsSolution (q : PllSolution) (t : State) : Prop :=
  t.reg .solRef = BitVec.ofNat 32 q.ref ∧ t.reg .solFb = BitVec.ofNat 32 q.fb ∧
  t.reg .solFrac = BitVec.ofNat 32 q.frac ∧ t.reg .solPost = BitVec.ofNat 32 q.post ∧
  t.reg .solPcode = BitVec.ofNat 32 q.pcode ∧ t.reg .solClk = BitVec.ofNat 32 q.clk ∧
  t.reg .solGain = BitVec.ofNat 32 q.gain

theorem writeSolution_holdsSolution (q : PllSolution) (s : State) :
    HoldsSolution q (writeSolution q s) := by
  simp [HoldsSolution, writeSolution, reg_setRegNat]

/-- A run with no bus operation that leaves both register spaces as they are is pure. -/
theorem pureOn_of_ran {rs : List Reg} {s t : State} (h : Ran rs [] 0 [] s t) (hdr : t.dr = s.dr)
    (hpr : t.pr = s.pr) : PureOn rs s t := by
  obtain ⟨hregs, hheld, ⟨hpins, hpri, hsec⟩, ⟨hhost, hseen⟩, ⟨hreads, hanswers, hdrawn⟩, htrace⟩ := h
  refine ⟨hregs, hheld, ?_⟩
  rw [List.append_nil] at htrace
  cases t
  simp_all

/-- PLLSOLVE writes the solution of its operands, ends with DONE, and touches nothing else
(41_pll_solver.md R110, R117). -/
theorem exec_pllsolve (c : Ctrl) (s : State) :
    ∃ t, exec (.pllsolve c) s = .next t ∧ HoldsSolution (s.solved msc1 c) t ∧
      Ended 0x00000002#32 t ∧ PureOn (solRegs ++ [Reg.status, Reg.phase]) s t := by
  have hran := ran_writeSolution ((prologue s).solved msc1 c) (prologue s)
  have hstatus : (pllsolveBody msc1 c (prologue s)).reg .status = 1#32 := by
    rw [pllsolveBody, ran_reg hran (by decide), prologue_reg, if_pos rfl]
  have hpure := pureOn_of_ran (ran_frame (body := pllsolveBody msc1 c) hran)
    (by simp [pllsolveBody, writeSolution]) (by simp [pllsolveBody, writeSolution])
  refine ⟨frame (pllsolveBody msc1 c) s, rfl, ?_, ⟨?_, ?_⟩, hpure⟩
  · rw [← solved_prologue]
    simpa [HoldsSolution, frame_reg, pllsolveBody] using
      writeSolution_holdsSolution ((prologue s).solved msc1 c) (prologue s)
  · rw [frame_reg, if_pos rfl, hstatus]
    rfl
  · rw [frame_reg]
    rfl

theorem regNat_of_reg_eq_ofNat {t : State} {a : Reg} {n : Nat} (h : t.reg a = BitVec.ofNat 32 n)
    (hn : n < 2 ^ 32) : t.regNat a = n := by
  rw [State.regNat, h, BitVec.toNat_ofNat, Nat.mod_eq_of_lt hn]

/-- Settles O23: the search keeps a candidate of the least key, PLLSOLVE writes its solution, and each
field of the solution fits its register. -/
theorem pllsolvePicksLeastCandidate : Obligations.PllsolvePicksLeastCandidate := by
  intro c s hex
  obtain ⟨r, f, i, p, hcand, hleast, hsolved⟩ := solved_of_candidate hex
  obtain ⟨t, hexec, hholds, hended, hpure⟩ := exec_pllsolve c s
  rw [hsolved] at hholds
  obtain ⟨href, hfb, hfrac, hpost, hpcode, hclk, hgain⟩ := hholds
  obtain ⟨hr, hf, hi, hp⟩ := isCandidate_bounds hcand
  have hg := gainOf_le (s.regNat (.dReffreq c)) r f
  exact ⟨t, r, f, i, p, hexec, hcand, hleast, regNat_of_reg_eq_ofNat href hr,
    regNat_of_reg_eq_ofNat hfb hf, hfrac, regNat_of_reg_eq_ofNat hpost (by omega),
    regNat_of_reg_eq_ofNat hpcode (by omega), hclk, regNat_of_reg_eq_ofNat hgain (by omega), hended,
    hpure⟩

end Sys2Proof.Proofs.Solver
end

section
/-! The gain classifier (42_gain_classifier.md R130 to R134): for every configuration whose gain bands
rise, the gain rises with the VCO frequency and is at least `GAIN_MIN`; GAINCLS writes the gain of its
operands and touches nothing else. -/

namespace Sys2Proof.Proofs.Gain

open Sys2Proof Sys2Proof.Machine Sys2Proof.Safety Sys2Proof.Laws Sys2Proof.Proofs.Solver

/-! ### The gain code -/

theorem wfGain_iff (k : Config) :
    k.wfGain = true ↔ k.gainMin ≤ k.gainMid ∧ k.gainMid ≤ k.gainHi ∧ k.gainMidMHz ≤ k.gainHiMHz := by
  simp [Config.wfGain, and_assoc]

theorem msc1_wfGain : msc1.wfGain = true := by decide

/-- "classifier is monotonic non-decreasing in VCO frequency" (42_gain_classifier.md R134 (b)): a VCO
below one of the two thresholds cannot follow one that reaches it. -/
theorem gainOfVco_monotone {k : Config} (hk : k.wfGain = true) : Monotone (gainOfVco k) := by
  obtain ⟨hmin, hmid, hbands⟩ := (wfGain_iff k).mp hk
  intro v w hvw
  have hscaled := Nat.mul_le_mul_right k.freqUnitsPerMHz hbands
  unfold gainOfVco
  split_ifs <;> omega

theorem gainMin_le_gainOfVco {k : Config} (hk : k.wfGain = true) (vco : Nat) :
    k.gainMin ≤ gainOfVco k vco := by
  obtain ⟨hmin, hmid, -⟩ := (wfGain_iff k).mp hk
  unfold gainOfVco
  split_ifs
  · exact hmin.trans hmid
  · exact hmin
  · exact le_rfl

theorem gainCode_zero (k : Config) (refFreq fbDiv : Nat) : gainCode k refFreq 0 fbDiv = k.gainMin :=
  if_pos rfl

theorem gainCode_of_ne_zero (k : Config) (refFreq fbDiv : Nat) {refDiv : Nat} (h : refDiv ≠ 0) :
    gainCode k refFreq refDiv fbDiv = gainOfVco k (refFreq * fbDiv / refDiv) := if_neg h

/-- No gain is below the one of a reference divider 0 (42_gain_classifier.md R132, R134 (a)). -/
theorem gainMin_le_gainCode {k : Config} (hk : k.wfGain = true) (refFreq refDiv fbDiv : Nat) :
    k.gainMin ≤ gainCode k refFreq refDiv fbDiv := by
  by_cases h : refDiv = 0
  · rw [h, gainCode_zero]
  · rw [gainCode_of_ne_zero k refFreq fbDiv h]
    exact gainMin_le_gainOfVco hk _

/-- The gain code is the function of the rules, with the thresholds in kHz (42_gain_classifier.md R131,
R133). -/
theorem gainCode_msc1 (refFreq refDiv fbDiv : Nat) :
    gainCode msc1 refFreq refDiv fbDiv = gainOf refFreq refDiv fbDiv := rfl

/-! ### The command -/

/-- A command whose body runs with no bus operation and leaves STATUS alone ends with DONE and is pure
(30_encoding.md R91). -/
theorem frame_ended_pureOn {rs : List Reg} {body : State → State} {s : State}
    (hran : Ran rs [] 0 [] (prologue s) (body (prologue s))) (hstatus : Reg.status ∉ rs)
    (hdr : (body (prologue s)).dr = s.dr) (hpr : (body (prologue s)).pr = s.pr) :
    Ended 0x00000002#32 (frame body s) ∧ PureOn (rs ++ [.status, .phase]) s (frame body s) := by
  have hbusy : (body (prologue s)).reg .status = 1#32 := by
    rw [ran_reg hran hstatus, prologue_reg, if_pos rfl]
  refine ⟨⟨?_, ?_⟩, pureOn_of_ran (ran_frame hran) hdr hpr⟩
  · rw [frame_reg, if_pos rfl, hbusy]
    rfl
  · rw [frame_reg]
    rfl

/-- The gain of the operands of GAINCLS (42_gain_classifier.md R130). -/
def operandGain (s : State) : Nat :=
  gainCode msc1 (s.regNat .gReffreq) (s.regNat .gRef) (s.regNat .gFb)

/-- The body writes G_OUT alone, with the gain of the operands as they stood before the prologue. -/
theorem gainclsBody_prologue (s : State) :
    gainclsBody msc1 (prologue s) = (prologue s).setRegNat .gOut (operandGain s) := by
  simp [gainclsBody, operandGain, State.regNat, prologue_reg]

/-- GAINCLS writes the gain of its operands, ends with DONE, and touches nothing else
(42_gain_classifier.md R130). -/
theorem exec_gaincls (s : State) :
    ∃ t, exec .gaincls s = .next t ∧ t.reg .gOut = BitVec.ofNat 32 (operandGain s) ∧
      Ended 0x00000002#32 t ∧ PureOn [.gOut, .status, .phase] s t := by
  have hran : Ran [.gOut] [] 0 [] (prologue s) (gainclsBody msc1 (prologue s)) :=
    ran_setRegNat _ _ _
  refine ⟨frame (gainclsBody msc1) s, rfl, ?_, frame_ended_pureOn hran (by decide) rfl rfl⟩
  rw [frame_reg, if_neg (by decide), if_neg (by decide), gainclsBody_prologue, reg_setRegNat, if_pos rfl]

/-- Settles O21: the gain code with the thresholds in kHz is the case split of the rule. -/
theorem gainclsWritesGain : Obligations.GainclsWritesGain := by
  intro s
  obtain ⟨t, hexec, hout, hended, hpure⟩ := exec_gaincls s
  refine ⟨t, hexec, ?_, hended, hpure⟩
  rw [hout, operandGain, gainCode_msc1, gainOf]
  split_ifs <;> rfl

/-- What GAINCLS leaves in G_OUT, as a number: the gain fits the register. -/
theorem regNat_gOut_of_operandGain {s t : State} (h : t.reg .gOut = BitVec.ofNat 32 (operandGain s)) :
    t.regNat .gOut = operandGain s :=
  regNat_of_reg_eq_ofNat h ((gainOf_le _ _ _).trans_lt (by decide))

/-- Settles O22: a reference divider 0 gives `GAIN_MIN`, which no gain is below; with two other reference
dividers the gains are those of the two VCO frequencies, and these rise. -/
theorem gainMonotoneInVco : Obligations.GainMonotoneInVco := by
  intro s s'
  obtain ⟨t, hexec, hout, -, -⟩ := exec_gaincls s
  obtain ⟨t', hexec', hout', -, -⟩ := exec_gaincls s'
  refine ⟨t, t', hexec, hexec', fun href => ?_, fun href href' hvco => ?_⟩
  · have hmin : operandGain s = msc1.gainMin := by rw [operandGain, href, gainCode_zero]
    refine ⟨by rw [hout, hmin]; rfl, ?_⟩
    rw [regNat_gOut_of_operandGain hout, regNat_gOut_of_operandGain hout', hmin]
    exact gainMin_le_gainCode msc1_wfGain _ _ _
  · rw [regNat_gOut_of_operandGain hout, regNat_gOut_of_operandGain hout', operandGain, operandGain,
      gainCode_of_ne_zero _ _ _ href, gainCode_of_ne_zero _ _ _ href']
    exact gainOfVco_monotone msc1_wfGain hvco

end Sys2Proof.Proofs.Gain
end

section
/-! The scaler parameter computer (43_scaler.md R140 to R152): the words of its results as the integer
formulas of the rules, the result that the policy and the panel select, and SCALCOMP, which writes that
result and touches nothing else. -/

namespace Sys2Proof.Proofs.Scaler

open Sys2Proof Sys2Proof.Machine Sys2Proof.Safety Sys2Proof.Laws Sys2Proof.Proofs.Gain

/-! ### The stretch words -/

/-- A disabled horizontal axis is the size field alone (43_scaler.md R142, R145). -/
theorem disabledStretch_hSize (w : Nat) :
    WordIs (disabledStretch msc1 (hSize msc1 w)) (disabledH w) := by
  rw [WordIs, disabledStretch_value, hSize, charClocks_natCast, disabledH]

theorem disabledStretch_vSize (h : Nat) : WordIs (disabledStretch msc1 (vSize h)) (disabledV h) :=
  disabledStretch_value (vSize h)

/-- The ratio of both axes, with `RATIO_MAX` = 4096 (43_scaler.md R145, R146). -/
theorem stretchRatioOf_eq_ratioOf (size panel : Nat) (inc : Bool) :
    stretchRatioOf 4096 size panel inc = ratioOf size panel inc := by
  cases inc <;> rfl

theorem enabledStretch_hSize (ratio pw : Nat) :
    WordIs (enabledStretch msc1 ratio (hSize msc1 pw)) (enabledAxis ratio (disabledH pw)) := by
  rw [WordIs, enabledStretch_value, hSize, charClocks_natCast, enabledAxis, disabledH]

theorem enabledStretch_vSize (ratio ph : Nat) :
    WordIs (enabledStretch msc1 ratio (vSize ph)) (enabledAxis ratio (disabledV ph)) :=
  enabledStretch_value ratio (vSize ph)

/-- The horizontal axis under Full and Aspect: passed through or stretched (43_scaler.md R145). -/
theorem hStretch_wordIs (w pw : Nat) (inc : Bool) :
    WordIs (hStretch msc1 (min w pw) pw inc) (stretchedH w pw inc) := by
  unfold hStretch stretchedH
  split_ifs
  · exact disabledStretch_hSize (min w pw)
  · rw [← stretchRatioOf_eq_ratioOf]
    exact enabledStretch_hSize _ pw

/-- The vertical axis under Full and Aspect (43_scaler.md R146). -/
theorem vStretch_wordIs (h ph : Nat) (inc : Bool) :
    WordIs (vStretch msc1 (min h ph) ph inc) (stretchedV h ph inc) := by
  unfold vStretch stretchedV
  split_ifs
  · exact disabledStretch_vSize (min h ph)
  · rw [← stretchRatioOf_eq_ratioOf]
    exact enabledStretch_vSize _ ph

/-! ### The center-mode timing words -/

/-- A horizontal sync word of the operands: its start, and the width and polarity that both variants
share (44_timing_packer.md R173). -/
theorem hsyncWord_wordIs (s : State) (start : Int) :
    WordIs (hsyncWord msc1 s.mode start) (start % 2 ^ 13 + hsyncRest s) :=
  syncWord_value start (hsyncWidth msc1 s.mode) s.mode.nhsync (n := 13) (m := 6) (by decide) (by decide)

/-- A vertical sync word of the operands (44_timing_packer.md R175). -/
theorem vsyncWord_wordIs (s : State) (start : Int) :
    WordIs (vsyncWord msc1 s.mode start) (start % 2 ^ 12 + vsyncRest s) :=
  syncWord_value start (vsyncWidth s.mode) s.mode.nvsync (n := 12) (m := 5) (by decide) (by decide)

/-- The blank width stands in the total field, capped (44_timing_packer.md R180). -/
theorem packCenter_htd (s : State) :
    WordIs (packCenter msc1 s.mode).htd (Safety.centerHtd s) := by
  have hdisp : hdisplayField msc1 s.mode = (s.regNat .mHdisp : Int) / 8 - 1 :=
    congrArg (· - 1) (charClocks_natCast (s.regNat .mHdisp))
  have hvalue := totalDispWord_value (hblankWidth msc1 s.mode) (hdisplayField msc1 s.mode)
    (n := 10) (m := 9) (by decide) (by decide)
  rw [hdisp] at hvalue
  exact hvalue

theorem packCenter_hsw (s : State) : WordIs (packCenter msc1 s.mode).hsw (centerHsw s) :=
  hsyncWord_wordIs s _

theorem packCenter_vtd (s : State) : WordIs (packCenter msc1 s.mode).vtd (centerVtd s) :=
  totalDispWord_value _ _ (n := 16) (m := 16) (by decide) (by decide)

theorem packCenter_vsw (s : State) : WordIs (packCenter msc1 s.mode).vsw (centerVsw s) :=
  vsyncWord_wordIs s _

/-! ### The result that the policy and the panel select -/

section dispatch
variable (k : Config) (m : DisplayMode) {pw ph : Nat} (hinc vinc : Bool)

theorem scaler_no_panel (pol : Policy) (h : pw = 0 ∨ ph = 0) :
    scaler k m pw ph pol hinc vinc = scalerFallback k m.hdisplay m.vdisplay := if_pos h

/-- Off is the fallback, with a panel or without (43_scaler.md R141 (2)). -/
theorem scaler_off : scaler k m pw ph .off hinc vinc = scalerFallback k m.hdisplay m.vdisplay :=
  ite_self _

theorem scaler_full (h : ¬ (pw = 0 ∨ ph = 0)) :
    scaler k m pw ph .full hinc vinc =
      scalerStretch k (min m.hdisplay pw) (min m.vdisplay ph) pw ph hinc vinc := if_neg h

/-- Full and Aspect are one function (43_scaler.md R147). -/
theorem scaler_aspect (h : ¬ (pw = 0 ∨ ph = 0)) :
    scaler k m pw ph .aspect hinc vinc =
      scalerStretch k (min m.hdisplay pw) (min m.vdisplay ph) pw ph hinc vinc := if_neg h

theorem scaler_center (h : ¬ (pw = 0 ∨ ph = 0)) :
    scaler k m pw ph .center hinc vinc =
      scalerCenter k (min m.hdisplay pw) (min m.vdisplay ph) pw ph m := if_neg h
end dispatch

/-- The policies in the order of their codes (10_state.md R28). -/
theorem policyOf_eq (s : State) :
    policyOf (s.reg .sPolicy) = [Policy.off, .full, .aspect].getD (policyNum s) .center := by
  unfold policyOf policyNum
  generalize bitsAt (s.reg .sPolicy) 2 0 = n
  match n with
  | 0 => rfl
  | 1 => rfl
  | 2 => rfl
  | _ + 3 => rfl

theorem scaled_fallback {s : State} (h : s.regNat .pW = 0 ∨ s.regNat .pH = 0 ∨ policyNum s = 0)
    (hinc vinc : Bool) :
    s.scaled msc1 hinc vinc = scalerFallback msc1 (s.regNat .mHdisp) (s.regNat .mVdisp) := by
  rcases or_assoc.mpr h with hpanel | hoff
  · exact scaler_no_panel msc1 s.mode hinc vinc _ hpanel
  · rw [State.scaled, policyOf_eq, hoff]
    exact scaler_off msc1 s.mode hinc vinc

theorem scaled_stretch {s : State} (hw : s.regNat .pW ≠ 0) (hh : s.regNat .pH ≠ 0)
    (h : policyNum s = 1 ∨ policyNum s = 2) (hinc vinc : Bool) :
    s.scaled msc1 hinc vinc = scalerStretch msc1 (min (s.regNat .mHdisp) (s.regNat .pW))
      (min (s.regNat .mVdisp) (s.regNat .pH)) (s.regNat .pW) (s.regNat .pH) hinc vinc := by
  have hpanel := not_or.mpr ⟨hw, hh⟩
  rcases h with hfull | haspect
  · rw [State.scaled, policyOf_eq, hfull]
    exact scaler_full msc1 s.mode hinc vinc hpanel
  · rw [State.scaled, policyOf_eq, haspect]
    exact scaler_aspect msc1 s.mode hinc vinc hpanel

theorem scaled_center {s : State} (hw : s.regNat .pW ≠ 0) (hh : s.regNat .pH ≠ 0)
    (h : policyNum s = 3) (hinc vinc : Bool) :
    s.scaled msc1 hinc vinc = scalerCenter msc1 (min (s.regNat .mHdisp) (s.regNat .pW))
      (min (s.regNat .mVdisp) (s.regNat .pH)) (s.regNat .pW) (s.regNat .pH) s.mode := by
  rw [State.scaled, policyOf_eq, h]
  exact scaler_center msc1 s.mode hinc vinc (not_or.mpr ⟨hw, hh⟩)

/-! ### The command -/

/-- The operand registers of `Scaler` (43_scaler.md R140). -/
def operandRegs : List Reg :=
  [.mHdisp, .mHtotal, .mHss, .mHse, .mHbs, .mHbe, .mVdisp, .mVtotal, .mVss, .mVse, .mVbs, .mVbe,
   .mFlags, .mClock, .pW, .pH, .sPolicy]

/-- The result depends on the operand registers and the two flags alone. -/
theorem scaled_congr {s t : State} (h : ∀ r ∈ operandRegs, t.reg r = s.reg r) (hinc vinc : Bool) :
    t.scaled msc1 hinc vinc = s.scaled msc1 hinc vinc := by
  simp (disch := decide) only [State.scaled, State.mode, State.regNat, h]

/-- The override registers hold overrides (43_scaler.md R152). -/
def HoldsOverrides (o : Overrides) (t : State) : Prop :=
  t.reg .scPtHtd = o.timing.htd ∧ t.reg .scPtHsw = o.timing.hsw ∧ t.reg .scPtVtd = o.timing.vtd ∧
  t.reg .scPtVsw = o.timing.vsw ∧ t.reg .scActH = o.actH ∧ t.reg .scActV = o.actV

/-- The result registers hold a result of `Scaler` (43_scaler.md R152). -/
def HoldsResult (q : ScalerResult) (t : State) : Prop :=
  t.reg .scHstr = q.hstr ∧ t.reg .scVstr = q.vstr ∧ t.reg .scCenter = q.center ∧
  t.reg .scOvr = bitIf q.overrides.isSome 0 ∧ HoldsOverrides (q.overrides.getD noOverrides) t

theorem writeScaler_holdsResult (q : ScalerResult) (s : State) : HoldsResult q (writeScaler q s) := by
  simp [HoldsResult, HoldsOverrides, writeScaler, writeOverrides, reg_setReg]

/-- The draws that a run has used up. -/
theorem ran_drew {rs : List Reg} {ws : List (Space × Nat)} {n : Nat} {es : List Event} {s t : State}
    (h : Ran rs ws n es s t) : Drew n 0 s t := by
  obtain ⟨-, -, -, -, hdrew, -⟩ := h
  exact hdrew

/-- The display and PLL registers after a run that does not list them. -/
theorem ran_held {rs : List Reg} {ws : List (Space × Nat)} {n : Nat} {es : List Event} {s t : State}
    (h : Ran rs ws n es s t) {sp : Space} {a : Nat} (ha : (sp, a) ∉ ws) :
    t.held sp a = s.held sp a := by
  obtain ⟨-, hheld, -⟩ := h
  exact hheld sp a ha

/-- A run goes on with a register write. -/
theorem ran_then_setReg {rs : List Reg} {ws : List (Space × Nat)} {n : Nat} {es : List Event}
    {s t : State} (h : Ran rs ws n es s t) (r : Reg) (v : Word) :
    Ran (rs ++ [r]) ws n es s (t.setReg r v) :=
  ran_mono (ran_trans h (ran_setReg t r v)) (by simp) (by simp) rfl (by simp)

theorem ran_writeScaler (q : ScalerResult) (s : State) : Ran scRegs [] 0 [] s (writeScaler q s) := by
  have hhstr := ran_setReg s .scHstr q.hstr
  have hvstr := ran_then_setReg hhstr .scVstr q.vstr
  have hcenter := ran_then_setReg hvstr .scCenter q.center
  have hovr := ran_then_setReg hcenter .scOvr (bitIf q.overrides.isSome 0)
  have hhtd := ran_then_setReg hovr .scPtHtd (q.overrides.getD noOverrides).timing.htd
  have hhsw := ran_then_setReg hhtd .scPtHsw (q.overrides.getD noOverrides).timing.hsw
  have hvtd := ran_then_setReg hhsw .scPtVtd (q.overrides.getD noOverrides).timing.vtd
  have hvsw := ran_then_setReg hvtd .scPtVsw (q.overrides.getD noOverrides).timing.vsw
  have hactH := ran_then_setReg hvsw .scActH (q.overrides.getD noOverrides).actH
  exact ran_then_setReg hactH .scActV (q.overrides.getD noOverrides).actV

/-- The prologue leaves the operands and the two flags of SCALCOMP as they are. -/
theorem scalcompBody_prologue (s : State) :
    scalcompBody msc1 (prologue s) =
      writeScaler (s.scaled msc1 (hincOf s) (vincOf s)) (prologue s) := by
  have hregs : ∀ r, r ≠ Reg.status → (prologue s).reg r = s.reg r :=
    fun r hr => (prologue_reg s r).trans (if_neg hr)
  rw [scalcompBody, hregs _ (by decide), hregs _ (by decide),
    scaled_congr (fun r hr => hregs r (ne_of_mem_of_not_mem hr (by decide)))]
  rfl

theorem holdsResult_congr {q : ScalerResult} {t u : State} (h : ∀ r ∈ scRegs, u.reg r = t.reg r)
    (hq : HoldsResult q t) : HoldsResult q u := by
  unfold HoldsResult HoldsOverrides at *
  simpa (disch := decide) only [h] using hq

/-- The result determines the ten result registers. -/
theorem holdsResult_unique {q : ScalerResult} {t u : State} (ht : HoldsResult q t)
    (hu : HoldsResult q u) : ∀ r ∈ scRegs, t.reg r = u.reg r := by
  unfold HoldsResult HoldsOverrides at *
  simp [scRegs, ovrRegs, ht, hu]

/-- The epilogue leaves the result registers as the body wrote them. -/
theorem frame_scRegs (body : State → State) (s : State) :
    ∀ r ∈ scRegs, (frame body s).reg r = (body (prologue s)).reg r := by
  intro r hr
  rw [frame_reg, if_neg (ne_of_mem_of_not_mem hr (by decide)),
    if_neg (ne_of_mem_of_not_mem hr (by decide))]

/-- SCALCOMP writes the result for its operands, ends with DONE, and touches nothing else
(43_scaler.md R140, R152). -/
theorem exec_scalcomp (s : State) :
    ∃ t, exec .scalcomp s = .next t ∧ HoldsResult (s.scaled msc1 (hincOf s) (vincOf s)) t ∧
      Ended 0x00000002#32 t ∧ PureOn (scRegs ++ [.status, .phase]) s t := by
  have hbody := scalcompBody_prologue s
  refine ⟨frame (scalcompBody msc1) s, rfl, holdsResult_congr (frame_scRegs _ s) ?_,
    frame_ended_pureOn ?_ (by decide) ?_ ?_⟩
  · rw [hbody]
    exact writeScaler_holdsResult _ _
  · rw [hbody]
    exact ran_writeScaler _ _
  · rw [hbody]
    rfl
  · rw [hbody]
    rfl

/-- Without overrides SC_OVR and the six override registers are 0 (43_scaler.md R152). -/
theorem overrides_zero {q : ScalerResult} {t : State} (h : HoldsResult q t)
    (hq : q.overrides = none) : t.reg .scOvr = 0 ∧ ∀ r ∈ ovrRegs, t.reg r = 0 := by
  obtain ⟨-, -, -, hovr, hsix⟩ := h
  rw [hq] at hovr hsix
  obtain ⟨hhtd, hhsw, hvtd, hvsw, hactH, hactV⟩ := hsix
  refine ⟨hovr, ?_⟩
  simp only [ovrRegs, List.forall_mem_cons]
  exact ⟨hhtd, hhsw, hvtd, hvsw, hactH, hactV, List.forall_mem_nil _⟩

/-- Settles O26: the dispatch ends in the fallback for each of the three reasons, and the fallback is the
two unclamped sizes alone. -/
theorem scalcompFallback : Obligations.ScalcompFallback := by
  intro s hs
  obtain ⟨t, hexec, hholds, hended, hpure⟩ := exec_scalcomp s
  rw [scaled_fallback hs] at hholds
  obtain ⟨hovr, hsix⟩ := overrides_zero hholds rfl
  obtain ⟨hhstr, hvstr, hcenter, -, -⟩ := hholds
  exact ⟨t, hexec, hhstr ▸ disabledStretch_hSize _, hvstr ▸ disabledStretch_vSize _, hcenter, hovr, hsix,
    hended, hpure⟩

/-- Settles O27: Full and Aspect share one result, each of whose axes is passed through or stretched by
itself. -/
theorem scalcompStretch : Obligations.ScalcompStretch := by
  intro s hw hh hpol
  obtain ⟨t, hexec, hholds, hended, hpure⟩ := exec_scalcomp s
  rw [scaled_stretch hw hh hpol] at hholds
  obtain ⟨hovr, hsix⟩ := overrides_zero hholds rfl
  obtain ⟨hhstr, hvstr, hcenter, -, -⟩ := hholds
  exact ⟨t, hexec, hhstr ▸ hStretch_wordIs _ _ _, hvstr ▸ vStretch_wordIs _ _ _, hcenter, hovr, hsix,
    hended, hpure⟩

/-- The panel size goes into the active area as the word it was read from (43_scaler.md R148). -/
theorem ofNat_regNat (s : State) (r : Reg) : BitVec.ofNat 32 (s.regNat r) = s.reg r :=
  (BitVec.ofNat_toNat 32 _).trans (BitVec.setWidth_eq _)

/-- Settles O28: Center disables both axes and takes the center-variant words of the same operands as
overrides. -/
theorem scalcompCenter : Obligations.ScalcompCenter := by
  intro s hw hh hpol
  obtain ⟨t, hexec, hholds, hended, hpure⟩ := exec_scalcomp s
  rw [scaled_center hw hh hpol] at hholds
  obtain ⟨hhstr, hvstr, hcenter, hovr, hhtd, hhsw, hvtd, hvsw, hactH, hactV⟩ := hholds
  exact ⟨t, hexec, hhstr ▸ disabledStretch_hSize _, hvstr ▸ disabledStretch_vSize _,
    hcenter.trans centerBits_msc1, hovr, hhtd ▸ packCenter_htd s, hhsw ▸ packCenter_hsw s,
    hvtd ▸ packCenter_vtd s, hvsw ▸ packCenter_vsw s, hactH.trans (ofNat_regNat s .pW),
    hactV.trans (ofNat_regNat s .pH), hended, hpure⟩

/-! ### The bits that the read-modify-writes keep -/

/-- A field has no bit outside its place. -/
theorem getLsbD_fieldAt_outside (v : Int) {n k i : Nat} (h : i < k ∨ k + n ≤ i) :
    (fieldAt v n k).getLsbD i = false := by
  rw [getLsbD_fieldAt]
  rcases h with hbelow | habove
  · rw [decide_eq_false hbelow.not_ge]
    simp
  · rw [decide_eq_false (show ¬ i - k < n by omega)]
    simp

/-- Bit 15 is the only bit of its mask. -/
theorem and_autoInc_of_getLsbD {w : Word} (h : w.getLsbD 15 = false) : w &&& 0x00008000#32 = 0 := by
  have hmask : 0x00008000#32 = BitVec.twoPow 32 15 := by decide
  rw [hmask, BitVec.and_twoPow, h]
  rfl

/-- The size field begins above bit 15. -/
theorem size_autoInc (size : Int) : (putField msc1.stretchSize size).getLsbD 15 = false :=
  getLsbD_fieldAt_outside size (by decide)

theorem disabledStretch_autoInc (size : Int) : disabledStretch msc1 size &&& 0x00008000#32 = 0 :=
  and_autoInc_of_getLsbD (size_autoInc size)

/-- Ratio, enable and blend end below bit 15. -/
theorem enabledStretch_autoInc (ratio : Nat) (size : Int) :
    enabledStretch msc1 ratio size &&& 0x00008000#32 = 0 := by
  have hratio : (putField msc1.stretchRatio ratio).getLsbD 15 = false :=
    getLsbD_fieldAt_outside ratio (by decide)
  have henable : (bitWord msc1.stretchEnable).getLsbD 15 = false := by decide
  have hblend : (bitWord msc1.stretchBlend).getLsbD 15 = false := by decide
  apply and_autoInc_of_getLsbD
  simp only [enabledStretch, BitVec.getLsbD_or, hratio, henable, hblend, size_autoInc, Bool.or_false]

theorem centerBits_kept : centerBits msc1 &&& 0xFFFFFFFC#32 = 0 := by decide

/-- A result has no bit that belongs to the hardware: bit 15 of the stretch words, and the center control
word but for its two enable bits (43_scaler.md R152, R160, R161). -/
def LeavesOwned (q : ScalerResult) : Prop :=
  q.hstr &&& 0x00008000#32 = 0 ∧ q.vstr &&& 0x00008000#32 = 0 ∧ q.center &&& 0xFFFFFFFC#32 = 0

theorem scalerFallback_leavesOwned (w h : Nat) : LeavesOwned (scalerFallback msc1 w h) :=
  ⟨disabledStretch_autoInc _, disabledStretch_autoInc _, BitVec.zero_and⟩

theorem scalerStretch_leavesOwned (cw ch pw ph : Nat) (hinc vinc : Bool) :
    LeavesOwned (scalerStretch msc1 cw ch pw ph hinc vinc) := by
  refine ⟨?_, ?_, BitVec.zero_and⟩
  · simp only [scalerStretch, hStretch]
    split_ifs
    · exact disabledStretch_autoInc _
    · exact enabledStretch_autoInc _ _
  · simp only [scalerStretch, vStretch]
    split_ifs
    · exact disabledStretch_autoInc _
    · exact enabledStretch_autoInc _ _

theorem scalerCenter_leavesOwned (cw ch pw ph : Nat) (m : DisplayMode) :
    LeavesOwned (scalerCenter msc1 cw ch pw ph m) :=
  ⟨disabledStretch_autoInc _, disabledStretch_autoInc _, centerBits_kept⟩

theorem scaler_leavesOwned (m : DisplayMode) (pw ph : Nat) (pol : Policy) (hinc vinc : Bool) :
    LeavesOwned (scaler msc1 m pw ph pol hinc vinc) := by
  by_cases hpanel : pw = 0 ∨ ph = 0
  · rw [scaler_no_panel _ _ _ _ _ hpanel]
    exact scalerFallback_leavesOwned _ _
  · cases pol with
    | off =>
      rw [scaler_off]
      exact scalerFallback_leavesOwned _ _
    | full =>
      rw [scaler_full _ _ _ _ hpanel]
      exact scalerStretch_leavesOwned _ _ _ _ _ _
    | aspect =>
      rw [scaler_aspect _ _ _ _ hpanel]
      exact scalerStretch_leavesOwned _ _ _ _ _ _
    | center =>
      rw [scaler_center _ _ _ _ hpanel]
      exact scalerCenter_leavesOwned _ _ _ _ _

/-! ### The words read -/

/-- The words that the two plain reads of SCALPROG present (43_scaler.md R159). -/
def hcurRead (s : State) : Word := readAt s .dr 0x008 0x00008000#32 0
def vcurRead (s : State) : Word := readAt s .dr 0x009 0x00008000#32 1

/-- The words that its three read-modify-writes present (43_scaler.md R160, R161). -/
def hstrOld (s : State) : Word := presented 0x00008000#32 (heldAt s .dr 0x008 0) (drawAt s 2)
def vstrOld (s : State) : Word := presented 0x00008000#32 (heldAt s .dr 0x009 1) (drawAt s 3)
def centerOld (s : State) : Word := readAt s .dr 0x00A 0xFFFFFFFC#32 4

/-- The result of the operands with the flags of the words read (43_scaler.md R159). -/
def hardwareScaled (s : State) : ScalerResult :=
  s.scaled msc1 (testBit (hcurRead s) 15) (testBit (vcurRead s) 15)

theorem memRead_horzStretch (s : State) :
    memRead msc1 .primary .horzStretch s = busRead .dr 0x008 0x00008000#32 s := by
  rw [memRead, drOwned_horzStretch]
  rfl

theorem memRead_vertStretch (s : State) :
    memRead msc1 .primary .vertStretch s = busRead .dr 0x009 0x00008000#32 s := by
  rw [memRead, drOwned_vertStretch]
  rfl

/-- The flags are read and the result written; the two registers then hold what they presented outside
the flag (43_scaler.md R159). -/
theorem scalerFromHardware_does (s : State) :
    Ran scRegs [(.dr, 0x008), (.dr, 0x009)] 2
      [.rd .dr 0x008 (hcurRead s), .rd .dr 0x009 (vcurRead s)] s (scalerFromHardware msc1 s) ∧
    HoldsResult (hardwareScaled s) (scalerFromHardware msc1 s) ∧
    (scalerFromHardware msc1 s).held .dr 0x008 = some (heldAt s .dr 0x008 0) ∧
    (scalerFromHardware msc1 s).held .dr 0x009 = some (heldAt s .dr 0x009 1) := by
  let s1 := (busRead .dr 0x008 0x00008000#32 s).2
  let s2 := (busRead .dr 0x009 0x00008000#32 s1).2
  have hread := ran_busRead .dr 0x008 0x00008000#32 s
  have vread := ran_busRead .dr 0x009 0x00008000#32 s1
  have hvalue : s.readValue .dr 0x008 0x00008000#32 = hcurRead s := readValue_eq_readAt _ _ _ _
  have vheld : s1.held .dr 0x009 = s.held .dr 0x009 := ran_held hread (by decide)
  have vvalue : s1.readValue .dr 0x009 0x00008000#32 = vcurRead s :=
    readValue_of_drew (ran_drew hread) _ vheld
  rw [hvalue] at hread
  rw [vvalue] at vread
  have hreads := ran_trans hread vread
  have hscaled : s2.scaled msc1 (testBit (hcurRead s) 15) (testBit (vcurRead s) 15) = hardwareScaled s :=
    scaled_congr (fun r _ => ran_reg hreads (List.not_mem_nil)) _ _
  have hres : scalerFromHardware msc1 s = writeScaler (hardwareScaled s) s2 := by
    rw [← hscaled, ← hvalue, ← vvalue, scalerFromHardware, memRead_horzStretch, memRead_vertStretch]
    rfl
  have hwrite := ran_writeScaler (hardwareScaled s) s2
  rw [hres]
  refine ⟨ran_trans hreads hwrite, writeScaler_holdsResult _ _, ?_, ?_⟩
  · rw [ran_held hwrite List.not_mem_nil, ran_held vread (by decide), busRead_held, if_pos ⟨rfl, rfl⟩]
    rfl
  · rw [ran_held hwrite List.not_mem_nil, busRead_held, if_pos ⟨rfl, rfl⟩, vheld,
      nextRead_of_drew (ran_drew hread)]
    rfl

/-! ### The stretch and center writes -/

/-- The events of the three read-modify-writes of the result registers, which read o1 to o3. -/
def stretchEvents (t : State) (o1 o2 o3 : Word) : List Event :=
  [rmwEvent .dr 0x008 (t.reg .scHstr) 0x00008000#32 o1,
   rmwEvent .dr 0x009 (t.reg .scVstr) 0x00008000#32 o2,
   rmwEvent .dr 0x00A (t.reg .scCenter) 0xFFFFFFFC#32 o3]

/-- What the three registers hold once they are written. -/
def StretchHeld (t : State) (o1 o2 o3 : Word) : Prop :=
  t.held .dr 0x008 = some ((o1 &&& 0x00008000#32) ||| t.reg .scHstr) ∧
  t.held .dr 0x009 = some ((o2 &&& 0x00008000#32) ||| t.reg .scVstr) ∧
  t.held .dr 0x00A = some ((o3 &&& 0xFFFFFFFC#32) ||| t.reg .scCenter)

/-- A read-modify-write of a value without kept bits, of a register that presents `old` (20_memory.md
R65). -/
theorem busRmw_does {sp : Space} {a : Nat} {owned v keep old : Word} {s : State}
    (hold : s.readValue sp a owned = old) (hv : v &&& keep = 0) :
    Ran [] [(sp, a)] 1 [rmwEvent sp a v keep old] s (busRmw sp a owned v keep s) ∧
      (busRmw sp a owned v keep s).held sp a = some ((old &&& keep) ||| v) := by
  have hrun := ran_busRmw sp a owned v keep s
  rw [hold, rmwWord_of_disjoint old hv] at hrun
  refine ⟨hrun, ?_⟩
  rw [busRmw_held, if_pos ⟨rfl, rfl⟩, hold, rmwWord_of_disjoint old hv]

/-- The three read-modify-writes at their addresses, with the hardware-owned bits of each register. -/
theorem programStretch_eq (s : State) :
    programStretch msc1 s =
      busRmw .dr 0x00A 0xFFFFFFFC#32 (s.reg .scCenter) 0xFFFFFFFC#32
        (busRmw .dr 0x009 0x00008000#32 (s.reg .scVstr) 0x00008000#32
          (busRmw .dr 0x008 0x00008000#32 (s.reg .scHstr) 0x00008000#32 s)) := by
  have hkeep : ~~~0x00000003#32 = 0xFFFFFFFC#32 := by decide
  simp only [programStretch, memRmwReg, memRmw, drOwned_horzStretch, drOwned_vertStretch,
    drOwned_centerCntl, bitWord_stretchAutoInc, centerBits_msc1, hkeep, busRmw_reg]
  rfl

/-- The stretch and center registers are written from the result registers, each with the bits it
presents outside the core's own kept (43_scaler.md R160, R161). -/
theorem programStretch_does {q : ScalerResult} {s : State} {hcur vcur : Word} (hq : HoldsResult q s)
    (howned : LeavesOwned q) (hh : s.held .dr 0x008 = some hcur) (hv : s.held .dr 0x009 = some vcur) :
    let o1 := presented 0x00008000#32 hcur (drawAt s 0)
    let o2 := presented 0x00008000#32 vcur (drawAt s 1)
    let o3 := readAt s .dr 0x00A 0xFFFFFFFC#32 2
    Ran [] [(.dr, 0x008), (.dr, 0x009), (.dr, 0x00A)] 3 (stretchEvents s o1 o2 o3) s
      (programStretch msc1 s) ∧ StretchHeld (programStretch msc1 s) o1 o2 o3 := by
  intro o1 o2 o3
  obtain ⟨hhstr, hvstr, hcenter, -, -⟩ := hq
  obtain ⟨kh, kv, kc⟩ := howned
  rw [← hhstr] at kh
  rw [← hvstr] at kv
  rw [← hcenter] at kc
  let s1 := busRmw .dr 0x008 0x00008000#32 (s.reg .scHstr) 0x00008000#32 s
  let s2 := busRmw .dr 0x009 0x00008000#32 (s.reg .scVstr) 0x00008000#32 s1
  obtain ⟨r1, held1⟩ := busRmw_does (old := o1) (readValue_some 0x00008000#32 hh) kh
  have hv1 : s1.held .dr 0x009 = some vcur := (ran_held r1 (by decide)).trans hv
  have hold2 : s1.readValue .dr 0x009 0x00008000#32 = o2 := readValue_of_held (ran_drew r1) _ hv1
  obtain ⟨r2, held2⟩ := busRmw_does hold2 kv
  have r12 := ran_trans r1 r2
  have hold3 : s2.readValue .dr 0x00A 0xFFFFFFFC#32 = o3 :=
    readValue_of_drew (ran_drew r12) _ (ran_held r12 (by decide))
  obtain ⟨r3, held3⟩ := busRmw_does hold3 kc
  rw [programStretch_eq]
  refine ⟨ran_trans r12 r3, ?_⟩
  simp only [StretchHeld, busRmw_reg]
  refine ⟨?_, ?_, held3⟩
  · rw [ran_held r3 (by decide), ran_held r2 (by decide), held1]
  · rw [ran_held r3 (by decide), held2]

/-! ### The override writes -/

/-- The registers that SCALPROG writes when SC_OVR is 1 (43_scaler.md R162). -/
def overrideWords (t : State) : List (Space × Nat) :=
  if t.reg .scOvr = 1 then [(.dr, 0x00B), (.dr, 0x00C), (.dr, 0x00D), (.dr, 0x00E), (.dr, 0x00F),
    (.dr, 0x010)] else []

/-- The events of these writes. -/
def overrideEvents (t : State) : List Event :=
  if t.reg .scOvr = 1 then
    [.wr .dr 0x00B (t.reg .scPtHtd), .wr .dr 0x00C (t.reg .scPtHsw),
     .wr .dr 0x00D (t.reg .scPtVtd), .wr .dr 0x00E (t.reg .scPtVsw),
     .wr .dr 0x00F (t.reg .scActH), .wr .dr 0x010 (t.reg .scActV)] else []

/-- What the written registers hold. -/
def OverridesHeld (t : State) : Prop :=
  t.reg .scOvr = 1 →
    t.held .dr 0x00B = some (t.reg .scPtHtd) ∧ t.held .dr 0x00C = some (t.reg .scPtHsw) ∧
    t.held .dr 0x00D = some (t.reg .scPtVtd) ∧ t.held .dr 0x00E = some (t.reg .scPtVsw) ∧
    t.held .dr 0x00F = some (t.reg .scActH) ∧ t.held .dr 0x010 = some (t.reg .scActV)

theorem programOverrides_of_none {s : State} (h : s.reg .scOvr ≠ 1) : programOverrides msc1 s = s :=
  if_neg h

/-- The six writes at their addresses. -/
theorem programOverrides_of_one {s : State} (h : s.reg .scOvr = 1) :
    programOverrides msc1 s =
      busWrite .dr 0x010 (s.reg .scActV) (busWrite .dr 0x00F (s.reg .scActH)
        (busWrite .dr 0x00E (s.reg .scPtVsw) (busWrite .dr 0x00D (s.reg .scPtVtd)
          (busWrite .dr 0x00C (s.reg .scPtHsw) (busWrite .dr 0x00B (s.reg .scPtHtd) s))))) := by
  simp only [programOverrides, if_pos h, memWriteReg, memWrite, busWrite_reg]
  rfl

/-- A run goes on with a write of a display register. -/
theorem ran_then_busWrite {rs : List Reg} {ws : List (Space × Nat)} {n : Nat} {es : List Event}
    {s t : State} (h : Ran rs ws n es s t) (a : Nat) (v : Word) :
    Ran rs (ws ++ [(.dr, a)]) n (es ++ [.wr .dr a v]) s (busWrite .dr a v t) :=
  ran_mono (ran_trans h (ran_busWrite .dr a v t)) (by simp) (by simp) rfl rfl

theorem ran_programOverrides (s : State) :
    Ran [] (overrideWords s) 0 (overrideEvents s) s (programOverrides msc1 s) := by
  by_cases h : s.reg .scOvr = 1
  · rw [programOverrides_of_one h, overrideWords, overrideEvents, if_pos h, if_pos h]
    have hhtd := ran_busWrite .dr 0x00B (s.reg .scPtHtd) s
    have hhsw := ran_then_busWrite hhtd 0x00C (s.reg .scPtHsw)
    have hvtd := ran_then_busWrite hhsw 0x00D (s.reg .scPtVtd)
    have hvsw := ran_then_busWrite hvtd 0x00E (s.reg .scPtVsw)
    have hactH := ran_then_busWrite hvsw 0x00F (s.reg .scActH)
    exact ran_then_busWrite hactH 0x010 (s.reg .scActV)
  · rw [programOverrides_of_none h, overrideWords, overrideEvents, if_neg h, if_neg h]
    exact ran_refl s

theorem programOverrides_held (s : State) : OverridesHeld (programOverrides msc1 s) := by
  intro h
  rw [ran_reg (ran_programOverrides s) List.not_mem_nil] at h
  rw [programOverrides_of_one h]
  simp [busWrite_held]

theorem not_mem_overrideWords (s : State) :
    (.dr, 0x008) ∉ overrideWords s ∧ (.dr, 0x009) ∉ overrideWords s ∧ (.dr, 0x00A) ∉ overrideWords s := by
  unfold overrideWords
  split_ifs <;> decide

/-- The override writes leave the stretch and center registers as they were written. -/
theorem programOverrides_stretchHeld {s : State} {o1 o2 o3 : Word} (h : StretchHeld s o1 o2 o3) :
    StretchHeld (programOverrides msc1 s) o1 o2 o3 := by
  have hrun := ran_programOverrides s
  obtain ⟨hmemH, hmemV, hmemC⟩ := not_mem_overrideWords s
  unfold StretchHeld
  rw [ran_held hrun hmemH, ran_held hrun hmemV, ran_held hrun hmemC, ran_reg hrun List.not_mem_nil,
    ran_reg hrun List.not_mem_nil, ran_reg hrun List.not_mem_nil]
  exact h

/-! ### SCALPROG 0 -/

/-- What SCALPROG 0 has done, seen from a state t that still has its results: what the registers that it
wrote hold (43_scaler.md R160 to R162). -/
def ScalerProgrammed (s t : State) : Prop :=
  StretchHeld t (hstrOld s) (vstrOld s) (centerOld s) ∧ OverridesHeld t

/-- The events of SCALPROG 0 in order (43_scaler.md R159 to R162). -/
def scalerEvents (s t : State) : List Event :=
  [.rd .dr 0x008 (hcurRead s), .rd .dr 0x009 (vcurRead s)] ++
    stretchEvents t (hstrOld s) (vstrOld s) (centerOld s) ++ overrideEvents t

/-- The display registers that SCALPROG 0 writes. -/
def scalerWords (t : State) : List (Space × Nat) :=
  [(.dr, 0x008), (.dr, 0x009), (.dr, 0x00A)] ++ overrideWords t

/-- The events speak of the result registers alone. -/
theorem scalerEvents_congr (s : State) {t u : State} (h : ∀ r ∈ scRegs, u.reg r = t.reg r) :
    scalerEvents s u = scalerEvents s t := by
  simp (disch := decide) only [scalerEvents, stretchEvents, overrideEvents, h]

theorem scalerWords_congr {t u : State} (h : ∀ r ∈ scRegs, u.reg r = t.reg r) :
    scalerWords u = scalerWords t := by
  simp (disch := decide) only [scalerWords, overrideWords, h]

theorem scalerProgrammed_congr {s t u : State} (h : ∀ r ∈ scRegs, u.reg r = t.reg r)
    (hheld : ∀ a, u.held .dr a = t.held .dr a) (hp : ScalerProgrammed s t) : ScalerProgrammed s u := by
  unfold ScalerProgrammed StretchHeld OverridesHeld at *
  simpa (disch := decide) only [h, hheld] using hp

/-- The scaler programmed, rules R159 to R162 of 43_scaler.md in order. -/
theorem programScaler_does (s : State) :
    Ran scRegs (scalerWords (programScaler msc1 s)) 5 (scalerEvents s (programScaler msc1 s)) s
      (programScaler msc1 s) ∧
    HoldsResult (hardwareScaled s) (programScaler msc1 s) ∧
    ScalerProgrammed s (programScaler msc1 s) := by
  obtain ⟨r1, hq, hh, hv⟩ := scalerFromHardware_does s
  obtain ⟨r2, hstretch⟩ := programStretch_does hq (scaler_leavesOwned _ _ _ _ _ _) hh hv
  have hdrew := ran_drew r1
  rw [drawAt_of_drew hdrew, drawAt_of_drew hdrew,
    readAt_of_drew hdrew (ran_held r1 (by decide))] at r2 hstretch
  have r3 := ran_programOverrides (programStretch msc1 (scalerFromHardware msc1 s))
  have hregs : ∀ r, (programScaler msc1 s).reg r = (scalerFromHardware msc1 s).reg r :=
    fun r => (ran_reg r3 List.not_mem_nil).trans (ran_reg r2 List.not_mem_nil)
  have hregs' : ∀ r, (programStretch msc1 (scalerFromHardware msc1 s)).reg r =
      (scalerFromHardware msc1 s).reg r := fun r => ran_reg r2 List.not_mem_nil
  refine ⟨ran_mono (ran_trans (ran_trans r1 r2) r3) (by simp) ?_ rfl ?_,
    holdsResult_congr (fun r _ => hregs r) hq,
    programOverrides_stretchHeld hstretch, programOverrides_held _⟩
  · have hfirst : [(Space.dr, 0x008), (.dr, 0x009)] ++ [(.dr, 0x008), (.dr, 0x009), (.dr, 0x00A)] ⊆
        [(.dr, 0x008), (.dr, 0x009), (.dr, 0x00A)] := by decide
    simp only [scalerWords, overrideWords, hregs, hregs']
    exact List.append_subset.mpr ⟨List.subset_append_of_subset_left _ hfirst,
      List.subset_append_right _ _⟩
  · simp only [scalerEvents, stretchEvents, overrideEvents, hregs, hregs']
    rfl

/-- The step number and the prologue leave the operands, the flags and the draws as they are. -/
theorem hardwareScaled_started (s : State) :
    hardwareScaled (setStep 5 (prologue s)) = hardwareScaled s := by
  refine scaled_congr (fun r hr => ?_) _ _
  rw [ran_reg (ran_setStep 5 _) (fun hphase => ne_of_mem_of_not_mem hr (by decide)
    (List.mem_singleton.mp hphase)), prologue_reg, if_neg (ne_of_mem_of_not_mem hr (by decide))]

/-- SCALCOMP on a state whose two flag operands are the words read computes what SCALPROG computes. -/
theorem scaled_setFlags (s : State) (h v : Word) :
    ((s.setReg .scHcur h).setReg .scVcur v).scaled msc1 (hincOf ((s.setReg .scHcur h).setReg .scVcur v))
      (vincOf ((s.setReg .scHcur h).setReg .scVcur v)) = s.scaled msc1 (testBit h 15) (testBit v 15) := by
  have hhinc : hincOf ((s.setReg .scHcur h).setReg .scVcur v) = testBit h 15 := by
    simp [hincOf, reg_setReg]
  have hvinc : vincOf ((s.setReg .scHcur h).setReg .scVcur v) = testBit v 15 := by
    simp [vincOf]
  rw [hhinc, hvinc]
  refine scaled_congr (fun r hr => ?_) _ _
  rw [reg_setReg_ne _ _ (ne_of_mem_of_not_mem hr (by decide)).symm,
    reg_setReg_ne _ _ (ne_of_mem_of_not_mem hr (by decide)).symm]

/-- CURPOL takes the two bits of the policy (47_modeset.md R255). -/
theorem policyBits_toNat (w : Word) : (policyBits w).toNat = bitsAt w 2 0 := by
  have hlt : bitsAt w 2 0 < 2 ^ 2 := Nat.mod_lt _ (by decide)
  rw [policyBits, BitVec.toNat_ofNat, Nat.mod_eq_of_lt (by omega)]

/-- A command whose body leaves STATUS alone ends with DONE (30_encoding.md R91). -/
theorem frame_ended {body : State → State} {s : State}
    (h : (body (prologue s)).reg .status = (prologue s).reg .status) :
    Ended 0x00000002#32 (frame body s) := by
  refine ⟨?_, ?_⟩
  · rw [frame_reg, if_pos rfl, h, prologue_reg, if_pos rfl]
    rfl
  · rw [frame_reg]
    rfl

/-- SCALPROG 0 computes from the words it reads, programs the scaler, and records the policy
(43_scaler.md R158, 47_modeset.md R255). -/
theorem exec_scalprog_primary (s : State) :
    ∃ t, exec (.scalprog .primary) s = .next t ∧ HoldsResult (hardwareScaled s) t ∧
      t.regNat (.curpol .primary) = policyNum s ∧ ScalerProgrammed s t ∧ Ended 0x00000002#32 t ∧
      Ran (scRegs ++ [.curpol .primary, .status, .phase]) (scalerWords t) 5 (scalerEvents s t) s t := by
  obtain ⟨hrun, hholds, hprog⟩ := programScaler_does (setStep 5 (prologue s))
  let u := programScaler msc1 (setStep 5 (prologue s))
  have hu : scalprogBody msc1 .primary (prologue s) = recordPolicy .primary u := rfl
  have hbody := ran_then_setReg (ran_trans (ran_setStep 5 (prologue s)) hrun) (.curpol .primary)
    (policyBits (u.reg .sPolicy))
  have hpolicy : u.reg .sPolicy = s.reg .sPolicy := by
    rw [ran_reg hrun (by decide), ran_reg (ran_setStep 5 _) (by decide), prologue_reg,
      if_neg (by decide)]
  have hsc : ∀ r ∈ scRegs, (frame (scalprogBody msc1 .primary) s).reg r = u.reg r := by
    intro r hr
    rw [frame_scRegs _ _ r hr, hu, recordPolicy,
      reg_setReg_ne _ _ (ne_of_mem_of_not_mem hr (by decide)).symm]
  refine ⟨frame (scalprogBody msc1 .primary) s, rfl, ?_, ?_, ?_, ?_, ?_⟩
  · rw [← hardwareScaled_started]
    exact holdsResult_congr hsc hholds
  · rw [State.regNat, frame_reg, if_neg (by decide), if_neg (by decide), hu, recordPolicy,
      reg_setReg_same, policyBits_toNat, hpolicy, policyNum]
  · exact scalerProgrammed_congr hsc (fun a => by rw [frame_held, hu, recordPolicy, setReg_held]) hprog
  · exact frame_ended (ran_reg hbody (by decide))
  · rw [scalerWords_congr hsc, scalerEvents_congr s hsc]
    exact ran_mono (ran_frame hbody) (by decide) (List.Subset.refl _) rfl rfl

/-- Settles O46: SCALPROG 0 and SCALCOMP on the flags that it read leave one result, so the registers are
equal; the reads, writes and events are those of the run. -/
theorem scalprogPrimaryProgramsScaler : Obligations.ScalprogPrimaryProgramsScaler := by
  intro s
  obtain ⟨t, hexec, hholds, hpolicy, ⟨⟨hhstr, hvstr, hcenter⟩, hovr⟩, hended, hrun⟩ :=
    exec_scalprog_primary s
  obtain ⟨hregs, hheld, hcollab, hhost, hdrew, htrace⟩ := hrun
  obtain ⟨p, hcomp, hres, -, -⟩ :=
    exec_scalcomp ((s.setReg .scHcur (hcurRead s)).setReg .scVcur (vcurRead s))
  rw [scaled_setFlags] at hres
  refine ⟨t, p, hcurRead s, vcurRead s, hstrOld s, vstrOld s, centerOld s, hexec, hcomp, rfl, rfl, rfl,
    rfl, rfl, holdsResult_unique hholds hres, hpolicy, ?_, hhstr, hvstr, hcenter, hovr, hheld, hended,
    hregs, hcollab, hhost, hdrew⟩
  rw [htrace, List.append_assoc]
  rfl

end Sys2Proof.Proofs.Scaler
end

section
/-! The timing packer (44_timing_packer.md R170 to R175, R180 to R183, R188): the four words of each variant
as the integer formulas of the rules, the control word, and TIMPACK, which writes these five words and
touches nothing else. -/

namespace Sys2Proof.Proofs.Timing

open Sys2Proof Sys2Proof.Machine Sys2Proof.Safety Sys2Proof.Laws Sys2Proof.Proofs.Gain
  Sys2Proof.Proofs.Scaler

/-! ### The words -/

/-- Total and display in character clocks: neither operand is negative, so the truncating division
is the floor division of the formula (44_timing_packer.md R172). -/
theorem packStd_htd (s : State) : WordIs (packStd msc1 s.mode).htd (stdHtd s) := by
  have htotal : htotalField msc1 s.mode = (s.regNat .mHtotal : Int) / 8 - 1 :=
    congrArg (· - 1) (charClocks_natCast (s.regNat .mHtotal))
  have hdisp : hdisplayField msc1 s.mode = (s.regNat .mHdisp : Int) / 8 - 1 :=
    congrArg (· - 1) (charClocks_natCast (s.regNat .mHdisp))
  have hvalue := totalDispWord_value (htotalField msc1 s.mode) (hdisplayField msc1 s.mode)
    (n := 10) (m := 9) (by decide) (by decide)
  rw [htotal, hdisp] at hvalue
  exact hvalue

theorem packStd_hsw (s : State) : WordIs (packStd msc1 s.mode).hsw (stdHsw s) :=
  hsyncWord_wordIs s _

theorem packStd_vtd (s : State) : WordIs (packStd msc1 s.mode).vtd (stdVtd s) :=
  totalDispWord_value _ _ (n := 16) (m := 16) (by decide) (by decide)

theorem packStd_vsw (s : State) : WordIs (packStd msc1 s.mode).vsw (stdVsw s) :=
  vsyncWord_wordIs s _

/-- The control word depends on the controller and on the secondary's power state alone
(44_timing_packer.md R188). -/
theorem packCtl_msc1 (s : State) (c : Ctrl) :
    packCtl msc1 c (s.reg (.pwr .secondary)) = ctlWord s c := by
  cases c with
  | primary => rfl
  | secondary =>
    simp only [packCtl, ctlWord, disableBits_msc1]
    split_ifs <;> rfl

/-! ### The command -/

/-- The four timing result registers hold the words of a variant (44_timing_packer.md R170). -/
def HoldsTiming (q : TimingWords) (t : State) : Prop :=
  t.reg .tpHtd = q.htd ∧ t.reg .tpHsw = q.hsw ∧ t.reg .tpVtd = q.vtd ∧ t.reg .tpVsw = q.vsw

theorem writeTiming_holdsTiming (k : Config) (c : Ctrl) (q : TimingWords) (s : State) :
    HoldsTiming q (writeTiming k c q s) := by
  simp [HoldsTiming, writeTiming, reg_setReg]

theorem writeTiming_tpCtl (k : Config) (c : Ctrl) (q : TimingWords) (s : State) :
    (writeTiming k c q s).reg .tpCtl = packCtl k c (s.reg (.pwr .secondary)) :=
  reg_setReg_same _ _ _

theorem ran_writeTiming (k : Config) (c : Ctrl) (q : TimingWords) (s : State) :
    Ran tpRegs [] 0 [] s (writeTiming k c q s) := by
  have hhtd := ran_setReg s .tpHtd q.htd
  have hhsw := ran_then_setReg hhtd .tpHsw q.hsw
  have hvtd := ran_then_setReg hhsw .tpVtd q.vtd
  have hvsw := ran_then_setReg hvtd .tpVsw q.vsw
  exact ran_then_setReg hvsw .tpCtl (packCtl k c (s.reg (.pwr .secondary)))

theorem mode_prologue (s : State) : (prologue s).mode = s.mode := by
  simp [State.mode, State.regNat, prologue_reg]

/-- The body packs the mode as it stood before the prologue. -/
theorem timpackBody_prologue (k : Config) (c : Ctrl) (v : Variant) (s : State) :
    timpackBody k c v (prologue s) = writeTiming k c (packVariant k v s.mode) (prologue s) := by
  rw [timpackBody, mode_prologue]

/-- The epilogue leaves the timing result registers as the body wrote them. -/
theorem frame_tpRegs (body : State → State) (s : State) :
    ∀ r ∈ tpRegs, (frame body s).reg r = (body (prologue s)).reg r := by
  intro r hr
  rw [frame_reg, if_neg (ne_of_mem_of_not_mem hr (by decide)),
    if_neg (ne_of_mem_of_not_mem hr (by decide))]

theorem holdsTiming_congr {q : TimingWords} {t u : State} (h : ∀ r ∈ tpRegs, u.reg r = t.reg r)
    (hq : HoldsTiming q t) : HoldsTiming q u := by
  unfold HoldsTiming at *
  simpa (disch := decide) only [h] using hq

/-- TIMPACK writes the words of its variant and the control word, ends with DONE, and touches nothing else
(44_timing_packer.md R170, R188). -/
theorem exec_timpack (c : Ctrl) (v : Variant) (s : State) :
    ∃ t, exec (.timpack c v) s = .next t ∧ HoldsTiming (packVariant msc1 v s.mode) t ∧
      t.reg .tpCtl = ctlWord s c ∧
      Ended 0x00000002#32 t ∧ PureOn (tpRegs ++ [.status, .phase]) s t := by
  have hbody := timpackBody_prologue msc1 c v s
  have hkept := frame_tpRegs (timpackBody msc1 c v) s
  rw [hbody] at hkept
  refine ⟨frame (timpackBody msc1 c v) s, rfl,
    holdsTiming_congr hkept (writeTiming_holdsTiming _ _ _ _), ?_, frame_ended_pureOn ?_ (by decide) ?_ ?_⟩
  · rw [hkept _ (by decide), writeTiming_tpCtl, prologue_reg, if_neg (by decide), packCtl_msc1]
  · rw [hbody]
    exact ran_writeTiming _ _ _ _
  · rfl
  · rfl

/-- Settles O30: TIMPACK writes the four words of `packStd`, each of them the rule's formula. -/
theorem timpackStandardWords : Obligations.TimpackStandardWords := by
  intro c s
  obtain ⟨t, hexec, ⟨hhtd, hhsw, hvtd, hvsw⟩, hctl, hended, hpure⟩ := exec_timpack c .std s
  exact ⟨t, hexec, hhtd ▸ packStd_htd s, hhsw ▸ packStd_hsw s, hvtd ▸ packStd_vtd s,
    hvsw ▸ packStd_vsw s, hctl, hended, hpure⟩

/-- Settles O31: TIMPACK writes the four words of `packCenter`, the same that SCALCOMP takes as overrides
under Center. -/
theorem timpackCenterWords : Obligations.TimpackCenterWords := by
  intro c s
  obtain ⟨t, hexec, ⟨hhtd, hhsw, hvtd, hvsw⟩, hctl, hended, hpure⟩ := exec_timpack c .center s
  exact ⟨t, hexec, hhtd ▸ packCenter_htd s, hhsw ▸ packCenter_hsw s, hvtd ▸ packCenter_vtd s,
    hvsw ▸ packCenter_vsw s, hctl, hended, hpure⟩

end Sys2Proof.Proofs.Timing
end

section
/-! The atomic PLL update protocol (45_atomic_update.md R200 to R208): `Commit` as the command PLLCOMMIT runs
it, between the prologue and the epilogue. -/

namespace Sys2Proof.Proofs.Atomic

open Sys2Proof Sys2Proof.Machine Sys2Proof.Safety Sys2Proof.Laws Sys2Proof.Proofs.Scaler

theorem drew_prologue (s : State) : Drew 0 0 s (prologue s) := by
  simp [Drew]

/-- The epilogue leaves the solution registers as the body wrote them. -/
theorem frame_solRegs (body : State → State) (s : State) :
    ∀ r ∈ solRegs, (frame body s).reg r = (body (prologue s)).reg r := by
  intro r hr
  rw [frame_reg, if_neg (ne_of_mem_of_not_mem hr (by decide)),
    if_neg (ne_of_mem_of_not_mem hr (by decide))]

/-- The prologue draws nothing and the epilogue keeps SOL_* and the PLL bank, so a command whose body is a
commit from its start is that commit. -/
theorem commitShape_frame {body : State → State} {s : State} {c : Ctrl} {h1 h2 : Word}
    {first second : List Word} {es : List Event}
    (h : CommitShape (prologue s) (body (prologue s)) c 0 h1 h2 first second es) :
    CommitShape s (frame body s) c 0 h1 h2 first second es :=
  commitShape_congr (frame_solRegs body s) (fun _ => frame_held _ _ _ _)
    (commitShape_of_drew (drew_prologue s) (prologue_held _ _ _) h)

/-- PLLCOMMIT commits the SOL_* registers, leaves the number of the second wait's reads in WAITCNT, and
ends with DONE (45_atomic_update.md R200, R202, R206). -/
theorem exec_pllcommit (c : Ctrl) (s : State) :
    ∃ t first second es, exec (.pllcommit c) s = .next t ∧
      CommitShape s t c 0 (heldAt s .pr (prBlock c) 0)
        (heldAt s .pr (prBlock c + 1) (first.length + 1)) first second es ∧
      t.regNat .waitcnt = second.length ∧ Ended 0x00000002#32 t ∧
      Ran [.waitcnt, .status, .phase]
        [(.pr, prBlock c), (.pr, prBlock c + 1), (.pr, prBlock c + 2)]
        (first.length + 5 + second.length) es s t := by
  obtain ⟨first, second, es, hshape, hrun, hcount⟩ := commitSolution_does c (prologue s)
  refine ⟨frame (commitSolution msc1 c) s, first, second, es, rfl, commitShape_frame hshape, ?_,
    frame_ended (ran_reg hrun (by decide)), ?_⟩
  · rw [State.regNat, frame_reg, if_neg (by decide), if_neg (by decide)]
    exact hcount
  · exact ran_mono (ran_frame hrun) (by decide) (List.Subset.refl _) rfl rfl

/-- Settles O33: PLLCOMMIT is one commit, whose run gives the trace, what is kept and the draws used. -/
theorem pllcommitRunsProtocol : Obligations.PllcommitRunsProtocol := by
  intro c s
  obtain ⟨t, first, second, es, hexec, hshape, hcount, hended, hrun⟩ := exec_pllcommit c s
  obtain ⟨hregs, hheld, hcollab, hhost, hdrew, htrace⟩ := hrun
  exact ⟨t, first, second, es, hexec, hshape, htrace, hcount, hended, hregs, hheld, hcollab, hhost, hdrew⟩

end Sys2Proof.Proofs.Atomic
end

section
/-! The DPMS state machine (46_dpms.md R220 to R230): DPMSSET as one read-modify-write of CTL, a write of
PWR[c], and at level On one palette reload. The reload reads no register and writes none, so it may stand
after the epilogue; what comes before it is a run. -/

namespace Sys2Proof.Proofs.Dpms

open Sys2Proof Sys2Proof.Machine Sys2Proof.Safety Sys2Proof.Laws Sys2Proof.Proofs.Scaler
  Sys2Proof.Proofs.Atomic

/-! ### The word a read presents -/

/-- Outside the hardware-owned bits a read presents what the register holds (20_memory.md R76). -/
theorem presented_outside (owned held draw : Word) :
    presented owned held draw &&& ~~~owned = held &&& ~~~owned := by
  apply BitVec.eq_of_getLsbD_eq
  intro i hi
  simp only [presented, BitVec.getLsbD_or, BitVec.getLsbD_and, BitVec.getLsbD_not]
  cases owned.getLsbD i <;> simp

/-- A hardware-owned bit is presented as drawn (20_memory.md R76). -/
theorem testBit_presented_of_owned {owned : Word} {k : Nat} (h : owned.getLsbD k = true)
    (held draw : Word) : testBit (presented owned held draw) k = testBit draw k := by
  simp [testBit, presented, h]

/-- A read agrees with a register that holds a value, outside the hardware-owned bits. -/
theorem readAt_answers (s : State) (sp : Space) (a : Nat) (owned : Word) (n : Nat) :
    Answers s sp a owned (readAt s sp a owned n) := by
  intro w hw
  rw [readAt, presented_outside, heldAt, hw, Option.getD_some]

/-- A read of a register that holds nothing presents the draw whole. -/
theorem readAt_of_held_none {s : State} {sp : Space} {a : Nat} (h : s.held sp a = none) (owned : Word)
    (n : Nat) : readAt s sp a owned n = drawAt s n := by
  rw [readAt, heldAt, h, Option.getD_none, presented_self]

/-! ### The words of DPMSSET -/

theorem drAddr_ctl (c : Ctrl) : drAddr msc1 c .ctl = drBlock c := by cases c <;> rfl

theorem drOwned_ctl (c : Ctrl) : drOwned msc1 c .ctl = ctlOwned c := by
  cases c
  · exact drOwned_ctl_primary
  · exact drOwned_ctl_secondary

theorem not_dpmsBits (c : Ctrl) : ~~~dpmsBits msc1 c = ctlKeep c := by cases c <;> decide

/-- What each level writes (46_dpms.md R221, R223, R224). -/
theorem dpmsValue_powerOfLevel (c : Ctrl) (level : Level) :
    dpmsValue msc1 c (powerOfLevel level) = ctlValue c level := by
  cases c <;> cases level <;> decide

/-- The value has no bit under the keep mask. -/
theorem ctlValue_and_ctlKeep (c : Ctrl) (level : Level) : ctlValue c level &&& ctlKeep c = 0 := by
  cases c <;> cases level <;> decide

theorem powerWord_powerOfLevel (level : Level) :
    powerWord (powerOfLevel level) = if level = .on then 0 else 1 := by
  cases level <;> rfl

/-- CTL is written on every invocation (46_dpms.md R226). -/
theorem dpmsWrites_msc1 (target : Power) (pwr : Word) : dpmsWrites msc1 target pwr = true := rfl

/-- The palette is reloaded when and only when the level is On (46_dpms.md R226). -/
theorem dpmsReloads_msc1 (level : Level) (pwr : Word) :
    dpmsReloads msc1 (powerOfLevel level) pwr = decide (level = .on) := by
  cases level <;> rfl

/-! ### The palette reload -/

/-- The palette reload of level On. -/
def reloadIfOn (c : Ctrl) (level : Level) (s : State) : State :=
  if level = .on then paletteReload c s else s

section reloadIfOn
variable (c : Ctrl) (level : Level) (s : State)

/-- A reload is indifferent to the core registers. -/
theorem reloadIfOn_setReg (r : Reg) (v : Word) :
    (reloadIfOn c level s).setReg r v = reloadIfOn c level (s.setReg r v) := by
  unfold reloadIfOn
  split
  · cases c <;> rfl
  · rfl

@[simp] theorem reloadIfOn_reg (r : Reg) : (reloadIfOn c level s).reg r = s.reg r := by
  unfold reloadIfOn; split <;> simp
@[simp] theorem reloadIfOn_held (sp : Space) (a : Nat) :
    (reloadIfOn c level s).held sp a = s.held sp a := by
  unfold reloadIfOn; split <;> simp
@[simp] theorem reloadIfOn_pins : (reloadIfOn c level s).pins = s.pins := by
  unfold reloadIfOn; split <;> simp
@[simp] theorem reloadIfOn_host : (reloadIfOn c level s).host = s.host := by
  unfold reloadIfOn; split <;> simp
@[simp] theorem reloadIfOn_hostSeen : (reloadIfOn c level s).hostSeen = s.hostSeen := by
  unfold reloadIfOn; split <;> simp
@[simp] theorem reloadIfOn_readDraws : (reloadIfOn c level s).readDraws = s.readDraws := by
  unfold reloadIfOn; split <;> simp
@[simp] theorem reloadIfOn_pinDraws : (reloadIfOn c level s).pinDraws = s.pinDraws := by
  unfold reloadIfOn; split <;> simp
@[simp] theorem reloadIfOn_drawn : (reloadIfOn c level s).drawn = s.drawn := by
  unfold reloadIfOn; split <;> simp

theorem reloadIfOn_trace :
    (reloadIfOn c level s).trace = s.trace ++ if level = .on then [.palette c] else [] := by
  unfold reloadIfOn; split <;> simp

theorem reloadIfOn_paletteCount (d : Ctrl) :
    (reloadIfOn c level s).paletteCount d =
      s.paletteCount d + if level = .on ∧ d = c then 1 else 0 := by
  unfold reloadIfOn
  split
  next h => simp [paletteReload_paletteCount, h]
  next h => simp [h]

/-- A reload at the end of a command's body may stand after the epilogue. -/
theorem frame_reloadIfOn (body : State → State) :
    frame (fun u => reloadIfOn c level (body u)) s = reloadIfOn c level (frame body s) := by
  simp only [frame, epilogue, reloadIfOn_setReg, reloadIfOn_reg]

end reloadIfOn

/-! ### The write of CTL -/

/-- DPMSSET but for the palette reload: CTL, then PWR[c] (46_dpms.md R223 to R225). -/
def writePower (c : Ctrl) (level : Level) (s : State) : State :=
  (busRmw .dr (drBlock c) (ctlOwned c) (ctlValue c level) (ctlKeep c) s).setReg (.pwr c)
    (if level = .on then 0 else 1)

/-- The body of DPMSSET is the write and the reload (46_dpms.md R220, R226). -/
theorem dpmssetBody_msc1 (c : Ctrl) (level : Level) (s : State) :
    dpmssetBody msc1 c level s = reloadIfOn c level (writePower c level s) := by
  rw [writePower, ← reloadIfOn_setReg, reloadIfOn]
  simp only [dpmssetBody, dpmsWrites_msc1, dpmsReloads_msc1, dpmsWrite, memRmw, drAddr_ctl, drOwned_ctl,
    dpmsValue_powerOfLevel, not_dpmsBits, powerWord_powerOfLevel, if_true, decide_eq_true_eq]

/-- The write is a run of one read-modify-write, of the word that CTL presents. -/
theorem writePower_does (c : Ctrl) (level : Level) (s : State) :
    Ran [.pwr c] [(.dr, drBlock c)] 1
        [rmwEvent .dr (drBlock c) (ctlValue c level) (ctlKeep c)
          (readAt s .dr (drBlock c) (ctlOwned c) 0)] s (writePower c level s) ∧
      (writePower c level s).held .dr (drBlock c) =
        some ((readAt s .dr (drBlock c) (ctlOwned c) 0 &&& ctlKeep c) ||| ctlValue c level) := by
  obtain ⟨hrun, hheld⟩ := busRmw_does (readValue_eq_readAt s .dr (drBlock c) (ctlOwned c))
    (ctlValue_and_ctlKeep c level)
  exact ⟨ran_then_setReg hrun _ _, by rw [writePower, setReg_held, hheld]⟩

/-- DPMSSET is a run that ends with DONE, and then the palette reload of level On (46_dpms.md R220 to
R226). -/
theorem exec_dpmsset (c : Ctrl) (level : Level) (s : State) :
    ∃ u, exec (.dpmsset c level) s = .next (reloadIfOn c level u) ∧
      Ran [.pwr c, .status, .phase] [(.dr, drBlock c)] 1
        [rmwEvent .dr (drBlock c) (ctlValue c level) (ctlKeep c)
          (readAt s .dr (drBlock c) (ctlOwned c) 0)] s u ∧
      u.held .dr (drBlock c) =
        some ((readAt s .dr (drBlock c) (ctlOwned c) 0 &&& ctlKeep c) ||| ctlValue c level) ∧
      u.reg (.pwr c) = (if level = .on then 0 else 1) ∧ Ended 0x00000002#32 u := by
  obtain ⟨hrun, hheld⟩ := writePower_does c level (prologue s)
  have hread : readAt (prologue s) .dr (drBlock c) (ctlOwned c) 0 =
      readAt s .dr (drBlock c) (ctlOwned c) 0 :=
    readAt_of_drew (drew_prologue s) (prologue_held s .dr (drBlock c)) (ctlOwned c) 0
  rw [hread] at hrun hheld
  refine ⟨frame (writePower c level) s, ?_, ran_frame hrun, ?_, ?_, ?_⟩
  · rw [← frame_reloadIfOn, ← funext (dpmssetBody_msc1 c level)]
    rfl
  · rw [frame_held, hheld]
  · rw [frame_reg, if_neg (by simp), if_neg (by simp), writePower, reg_setReg_same]
  · exact frame_ended (ran_reg hrun (by simp))

/-- AUX_CRT_ON of the secondary is hardware-owned (10_state.md R41). -/
theorem ctlOwned_auxCrtOn : (ctlOwned .secondary).getLsbD 8 = true := by decide

/-- Settles O35: what the run before the reload does, and what the reload adds. -/
theorem dpmssetWritesCtl : Obligations.DpmssetWritesCtl := by
  intro c level s
  obtain ⟨u, hexec, ⟨hregs, hwords, ⟨hpins, hpri, hsec⟩, ⟨hhost, hseen⟩, ⟨hreads, hpinDraws, hdrawn⟩,
    htrace⟩, hheld, hpwr, hstatus, hphase⟩ := exec_dpmsset c level s
  have hcount : ∀ d, u.paletteCount d = s.paletteCount d
    | .primary => hpri
    | .secondary => hsec
  refine ⟨reloadIfOn c level u, readAt s .dr (drBlock c) (ctlOwned c) 0, hexec, ?answers, ?auxCrtOn,
    fun h => readAt_of_held_none h _ _, ?_⟩
  case answers =>
    rw [drOwned_ctl]
    exact readAt_answers s .dr (drBlock c) (ctlOwned c) 0
  case auxCrtOn =>
    rintro rfl
    exact testBit_presented_of_owned ctlOwned_auxCrtOn _ _
  simp only [Ended, RegsKept, HeldKept, HostKept, Drew, reloadIfOn_reg, reloadIfOn_held,
    reloadIfOn_pins, reloadIfOn_host, reloadIfOn_hostSeen, reloadIfOn_readDraws, reloadIfOn_pinDraws,
    reloadIfOn_drawn]
  exact ⟨hheld, by rw [reloadIfOn_trace, htrace], hpwr, fun d => by rw [reloadIfOn_paletteCount, hcount],
    hpins, ⟨hstatus, hphase⟩, hregs, hwords, ⟨hhost, hseen⟩, hreads, hpinDraws, hdrawn⟩

end Sys2Proof.Proofs.Dpms
end

section
/-! Step 1 of a mode set when the pin fails (47_modeset.md R239, 60_exceptions.md R275): SETBASE and MODESET
have one body, which asks for the pin and raises E_ALLOC. -/

namespace Sys2Proof.Proofs.Setbase

open Sys2Proof Sys2Proof.Machine Sys2Proof.Safety Sys2Proof.Laws

/-- Each code of `FORMATS` has a byte count (47_modeset.md R238). -/
theorem bytesOfFormat_of_supported {code : Nat} (h : code ∈ [8, 15, 16, 24, 32]) :
    ∃ bytes, bytesOfFormat msc1 code = some bytes := by
  have hall : ∀ n ∈ [8, 15, 16, 24, 32], (bytesOfFormat msc1 n).isSome = true := by decide
  exact Option.isSome_iff_exists.mp (hall code h)

/-- A machine after step 1 of a mode set in which the pin failed (47_modeset.md R239). -/
def pinRefused (s : State) : State :=
  raise statusEAlloc ((setStep 1 s).advancePin.log (.pin (s.reg .fbHandle) .fail))

theorem setbaseRun_of_pinFails (c : Ctrl) {s : State} (hformat : s.regNat .fbFormat ∈ [8, 15, 16, 24, 32])
    (hpin : s.nextPin = .fail) : setbaseRun msc1 c s = (.pinFailed, pinRefused s) := by
  have hcode : (setStep 1 s).regNat .fbFormat = s.regNat .fbFormat :=
    congrArg BitVec.toNat (ran_reg (ran_setStep 1 s) (by decide))
  have hhandle : (setStep 1 s).reg .fbHandle = s.reg .fbHandle :=
    ran_reg (ran_setStep 1 s) (by decide)
  have hanswer : (setStep 1 s).nextPin = .fail := hpin
  obtain ⟨bytes, hbytes⟩ := bytesOfFormat_of_supported hformat
  simp only [setbaseRun, hcode, hbytes, pinAndProgram, pinHandle_does, hanswer, hhandle, pinRefused]
  rfl

/-- A refused pin changes no core register but STATUS and PHASE. -/
theorem pinRefused_reg (s : State) {r : Reg} (hstatus : r ≠ .status) (hphase : r ≠ .phase) :
    (pinRefused s).reg r = s.reg r := by
  rw [pinRefused, raise_does, reg_setReg_ne _ _ hstatus.symm, log_reg, advancePin_reg, setStep,
    reg_setReg_ne _ _ hphase.symm]

theorem pinRefused_status (s : State) :
    (pinRefused s).reg .status = s.reg .status ||| bitWord statusEAlloc := by
  rw [pinRefused, raise_does, reg_setReg_same, log_reg, advancePin_reg, ran_reg (ran_setStep 1 s) (by decide)]

theorem pinRefused_held (s : State) (sp : Space) (a : Nat) : (pinRefused s).held sp a = s.held sp a := by
  simp [pinRefused, raise_does, setStep]

/-- The epilogue over the STATUS that the body leaves (30_encoding.md R91). -/
theorem frame_ended_of_status {body : State → State} {s : State} {status : Word}
    (h : (body (prologue s)).reg .status = status) : Ended (statusAtEnd status) (frame body s) :=
  ⟨by rw [frame_reg, if_pos rfl, h], by rw [frame_reg, if_neg (by decide), if_pos rfl]⟩

/-- A command whose body is a refused pin: E_ALLOC, one event, and nothing touched. -/
theorem frame_pinRefused {body : State → State} {s : State}
    (hbody : body (prologue s) = pinRefused (prologue s)) :
    Ended 0x00000042#32 (frame body s) ∧ RegsKept [.status, .phase] s (frame body s) ∧
      HeldKept [] s (frame body s) ∧
      (frame body s).trace = s.trace ++ [.pin (s.reg .fbHandle) .fail] ∧
      NoCollab s (frame body s) ∧ HostKept s (frame body s) ∧ Drew 0 1 s (frame body s) := by
  refine ⟨?ended, fun r hr => ?regs, fun sp a _ => ?held, ?trace, ?collab, ?host, ?drew⟩
  case ended =>
    refine frame_ended_of_status (status := 1#32 ||| bitWord statusEAlloc) ?_
    rw [hbody, pinRefused_status, prologue_reg, if_pos rfl]
  case regs =>
    obtain ⟨hstatus, hphase⟩ : r ≠ .status ∧ r ≠ .phase := by simpa using hr
    rw [frame_reg, if_neg hstatus, if_neg hphase, hbody, pinRefused_reg _ hstatus hphase, prologue_reg,
      if_neg hstatus]
  case held => rw [frame_held, hbody, pinRefused_held, prologue_held]
  case trace => simp [hbody, pinRefused, raise_does, setStep, prologue_reg]
  case collab => simp [NoCollab, hbody, pinRefused, raise_does, setStep]
  case host => simp [HostKept, hbody, pinRefused, raise_does, setStep]
  case drew => simp [Drew, hbody, pinRefused, raise_does, setStep]

/-- Settles O38: under both commands the body is the same refused pin, since MODESET goes no further than
its step 1. -/
theorem pinFailureAbortsUntouched : Obligations.PinFailureAbortsUntouched := by
  intro c s hformat hpin i hi
  have hcode : (prologue s).regNat .fbFormat ∈ [8, 15, 16, 24, 32] := by
    rwa [State.regNat, prologue_reg, if_neg (by decide)]
  have hrun := setbaseRun_of_pinFails c hcode hpin
  have hsetbase : setbaseBody msc1 c (prologue s) = pinRefused (prologue s) := by
    rw [setbaseBody, hrun]
  have hmodeset : modesetBody msc1 c (prologue s) = pinRefused (prologue s) := by
    rw [modesetBody, hrun]
  rcases List.mem_pair.mp hi with rfl | rfl
  · exact ⟨frame (setbaseBody msc1 c) s, rfl, frame_pinRefused hsetbase⟩
  · exact ⟨frame (modesetBody msc1 c) s, rfl, frame_pinRefused hmodeset⟩

end Sys2Proof.Proofs.Setbase
end

section
/-! Step 3 of a mode set, PLLPROG (47_modeset.md R245 to R250): the solution that it writes, solved or
honoured; the read-back of the latched dividers on a power-sensitive chip; the fast path and the slow
path, each as one run. -/

namespace Sys2Proof.Proofs.Clock

open Sys2Proof Sys2Proof.Machine Sys2Proof.Safety Sys2Proof.Laws Sys2Proof.Proofs.Solver
  Sys2Proof.Proofs.Scaler Sys2Proof.Proofs.Atomic Sys2Proof.Proofs.Setbase

/-! ### The solution -/

/-- The code of a post divider, of the table or of index 0 (41_pll_solver.md R118). -/
theorem postCodeOf_msc1 (v : Nat) : postCodeOf msc1 v = postCode v := by
  have htable : ∀ p ∈ msc1.postDivs, postCodeOf msc1 p = postCode p := by decide
  by_cases h : v ∈ msc1.postDivs
  · exact htable v h
  · have hnone : msc1.postDivs.findIdx? (· == v) = none :=
      List.findIdx?_eq_none_iff.mpr fun p hp => beq_false_of_ne (ne_of_mem_of_not_mem hp h)
    have hzero : postCode v = 0 := by
      simp only [msc1, List.mem_cons, List.not_mem_nil, or_false, not_or] at h
      simp [postCode, h]
    rw [postCodeOf, hnone, hzero]
    rfl

/-- The operand registers of the solution (47_modeset.md R246). -/
def solutionOperands (c : Ctrl) : List Reg :=
  [.mClock, .fSolve, .xRef, .xFb, .xPost, .dReffreq c, .dMaxref c, .dMinfb c, .dMaxfb c, .dRefovr c]

theorem solution_congr {c : Ctrl} {s t : State} (h : ∀ r ∈ solutionOperands c, t.reg r = s.reg r) :
    t.solution msc1 c = s.solution msc1 c := by
  simp only [solutionOperands, List.forall_mem_cons] at h
  simp only [State.solution, State.honorPresupplied, State.honoured, State.solved, State.descriptor,
    State.regNat, h]
  -- the two sides now differ in their decision procedures alone
  rfl

/-- Two states that hold one solution agree on the result registers. -/
theorem holdsSolution_unique {q : PllSolution} {t u : State} (ht : HoldsSolution q t)
    (hu : HoldsSolution q u) : ∀ r ∈ solRegs, t.reg r = u.reg r := by
  unfold HoldsSolution at ht hu
  simp [solRegs, ht, hu]

theorem holdsSolution_congr {q : PllSolution} {t u : State} (h : ∀ r ∈ solRegs, u.reg r = t.reg r)
    (hq : HoldsSolution q t) : HoldsSolution q u := by
  unfold HoldsSolution at *
  simpa (disch := decide) only [h] using hq

/-- The machine when PLLPROG comes to its path choice: the solution stands in SOL_*. -/
def solutionWritten (c : Ctrl) (s : State) : State :=
  writeSolution ((setStep 3 (prologue s)).solution msc1 c) (setStep 3 (prologue s))

theorem ran_solutionWritten (c : Ctrl) (s : State) :
    Ran (.phase :: solRegs) [] 0 [] (prologue s) (solutionWritten c s) :=
  ran_trans (ran_setStep 3 (prologue s)) (ran_writeSolution _ _)

/-- The step number and the prologue leave the operands of the solution as they are. -/
theorem solutionWritten_holdsSolution (c : Ctrl) (s : State) :
    HoldsSolution (s.solution msc1 c) (solutionWritten c s) := by
  have hsame : (setStep 3 (prologue s)).solution msc1 c = s.solution msc1 c := by
    refine solution_congr fun r hr => ?_
    have hstatus : r ≠ .status := ne_of_mem_of_not_mem hr (by simp [solutionOperands])
    have hphase : r ≠ .phase := ne_of_mem_of_not_mem hr (by simp [solutionOperands])
    rw [ran_reg (ran_setStep 3 _) (by simpa using hphase), prologue_reg, if_neg hstatus]
  rw [← hsame]
  exact writeSolution_holdsSolution _ _

theorem drew_solutionWritten (c : Ctrl) (s : State) : Drew 0 0 s (solutionWritten c s) := by
  simpa [Drew] using ran_drew (ran_solutionWritten c s)

theorem solutionWritten_held (c : Ctrl) (s : State) (sp : Space) (a : Nat) :
    (solutionWritten c s).held sp a = s.held sp a := by
  rw [ran_held (ran_solutionWritten c s) (by simp), prologue_held]

/-! ### The read-back -/

/-- The machine after the two read-backs (47_modeset.md R247). -/
def bankRead (c : Ctrl) (s : State) : State :=
  (pllRead msc1 c .pllFbPost (pllRead msc1 c .pllRefDiv s).2).2

/-- The word of PLL_REF_DIV that the first read-back presents (20_memory.md R76). -/
def refDivRead (c : Ctrl) (s : State) : Word := readAt s .pr (prBlock c) 0xFFFF7C00#32 0

/-- The word of PLL_FB_POST that the second read-back presents (20_memory.md R76). -/
def fbPostRead (c : Ctrl) (s : State) : Word := readAt s .pr (prBlock c + 1) 0xFFF88000#32 1

theorem pllRead_fbPost (c : Ctrl) (s : State) :
    pllRead msc1 c .pllFbPost s = busRead .pr (prBlock c + 1) 0xFFF88000#32 s := by
  rw [pllRead, prAddr_fbPost, prOwned_pllFbPost]

theorem pllRead_fbPost_value (c : Ctrl) (s : State) :
    (pllRead msc1 c .pllFbPost (pllRead msc1 c .pllRefDiv s).2).1 = fbPostRead c s := by
  obtain ⟨hrun, -, -⟩ := waitRead_does c s
  rw [pllRead_fbPost, busRead_value]
  exact readValue_of_drew (ran_drew hrun) _ (ran_held hrun (by simp))

/-- The read-back is a run of two reads; each register then holds what it held, or its draw. -/
theorem bankRead_does (c : Ctrl) (s : State) :
    Ran [] [(.pr, prBlock c), (.pr, prBlock c + 1)] 2
        [.rd .pr (prBlock c) (refDivRead c s), .rd .pr (prBlock c + 1) (fbPostRead c s)]
        s (bankRead c s) ∧
      (bankRead c s).held .pr (prBlock c) = some (heldAt s .pr (prBlock c) 0) ∧
      (bankRead c s).held .pr (prBlock c + 1) = some (heldAt s .pr (prBlock c + 1) 1) := by
  obtain ⟨hrun, -, hheld⟩ := waitRead_does c s
  have hkept : (pllRead msc1 c .pllRefDiv s).2.held .pr (prBlock c + 1) = s.held .pr (prBlock c + 1) :=
    ran_held hrun (by simp)
  have hnext := ran_busRead .pr (prBlock c + 1) 0xFFF88000#32 (pllRead msc1 c .pllRefDiv s).2
  rw [readValue_of_drew (ran_drew hrun) _ hkept] at hnext
  rw [bankRead, pllRead_fbPost]
  refine ⟨ran_trans hrun hnext, ?_, ?_⟩
  · rw [ran_held hnext (by simp), hheld]
  · rw [busRead_held, if_pos ⟨rfl, rfl⟩, hkept, nextRead_of_drew (ran_drew hrun), heldAt]

/-- The three fields read are the solution's (47_modeset.md R247). -/
def TripleLatched (t : State) (a b : Word) : Prop :=
  bitsAt a 10 0 = t.regNat .solRef % 1024 ∧ bitsAt b 11 0 = t.regNat .solFb % 2048 ∧
    bitsAt b 3 16 = t.regNat .solPcode % 8

theorem triplesMatch_iff (a b : Word) (s : State) :
    triplesMatch msc1 a b s = true ↔ TripleLatched s a b := by
  simp only [triplesMatch, Bool.and_eq_true, beq_iff_eq, and_assoc]
  rfl

theorem tripleLatched_congr {t u : State} (h : ∀ r ∈ solRegs, u.reg r = t.reg r) (a b : Word) :
    TripleLatched u a b ↔ TripleLatched t a b := by
  simp (disch := decide) only [TripleLatched, State.regNat, h]

/-! ### The path choice -/

theorem programClock_insensitive (c : Ctrl) {s : State} (h : s.powerSensitive = false) :
    programClock msc1 c s = slowPath msc1 c s := by
  simp [programClock, h]

theorem programClock_sensitive (c : Ctrl) {s : State} (h : s.powerSensitive = true) :
    programClock msc1 c s =
      if triplesMatch msc1 (refDivRead c s) (fbPostRead c s) (bankRead c s) then
        fastPath msc1 c (bankRead c s)
      else slowPath msc1 c (bankRead c s) := by
  obtain ⟨-, hvalue, -⟩ := waitRead_does c s
  rw [programClock, if_pos h]
  simp only [hvalue, pllRead_fbPost_value]
  rfl

/-- The fast path is one read-modify-write of CLK_SEL and the flag (47_modeset.md R248). -/
theorem fastPath_does (c : Ctrl) (s : State) :
    Ran [.status] [(.pr, prBlock c + 3)] 1
        [rmwEvent .pr (prBlock c + 3) 0x00000001#32 0xFFFFFFFE#32
          (readAt s .pr (prBlock c + 3) 0xFFFFFFFE#32 0)] s (fastPath msc1 c s) ∧
      (fastPath msc1 c s).held .pr (prBlock c + 3) =
        some ((readAt s .pr (prBlock c + 3) 0xFFFFFFFE#32 0 &&& 0xFFFFFFFE#32) ||| 0x00000001#32) ∧
      (fastPath msc1 c s).reg .status = s.reg .status ||| bitWord statusFast := by
  have hkeep : ~~~(0x00000001#32) = 0xFFFFFFFE#32 := by decide
  obtain ⟨hrun, hheld⟩ := busRmw_does (v := 0x00000001#32) (keep := 0xFFFFFFFE#32)
    (readValue_eq_readAt s .pr (prBlock c + 3) 0xFFFFFFFE#32) (by decide)
  rw [fastPath, pllRmw, prAddr_clkSel, prOwned_clkSel, bitWord_srcSel, hkeep, raise_does]
  exact ⟨ran_then_setReg hrun _ _, by rw [setReg_held, hheld], by rw [reg_setReg_same, busRmw_reg]⟩

/-- The slow path is the commit of SOL_* and the settle delay (47_modeset.md R249, R250). -/
theorem slowPath_does (c : Ctrl) (s : State) :
    ∃ first second es,
      CommitShape s (slowPath msc1 c s) c 0 (heldAt s .pr (prBlock c) 0)
        (heldAt s .pr (prBlock c + 1) (first.length + 1)) first second es ∧
      Ran [.waitcnt, .phase] [(.pr, prBlock c), (.pr, prBlock c + 1), (.pr, prBlock c + 2)]
        (first.length + 5 + second.length) (es ++ [.delay 50]) s (slowPath msc1 c s) ∧
      (slowPath msc1 c s).regNat .waitcnt = second.length := by
  obtain ⟨first, second, es, hshape, hrun, hcount⟩ := commitSolution_does c s
  have hstep := ran_setProtocolStep 5 (commitSolution msc1 c s)
  have hdelay := ran_delayMs 50 (setProtocolStep 5 (commitSolution msc1 c s))
  have hsettle : Ran [.phase] [] 0 [.delay 50] (commitSolution msc1 c s) (slowPath msc1 c s) :=
    ran_mono (ran_trans (ran_trans hstep hdelay) (ran_setProtocolStep 0 _)) (by decide) (by simp) rfl rfl
  refine ⟨first, second, es, commitShape_congr (fun r hr => ?_) (fun a => ?_) hshape,
    ran_mono (ran_trans hrun hsettle) (by decide) (by simp) rfl rfl, ?_⟩
  · exact ran_reg hsettle (fun h => ne_of_mem_of_not_mem hr (by decide) (List.mem_singleton.mp h))
  · exact ran_held hsettle (by simp)
  · rw [State.regNat, ran_reg hsettle (by decide)]
    exact hcount

theorem fastPath_solRegs (c : Ctrl) (s : State) : ∀ r ∈ solRegs, (fastPath msc1 c s).reg r = s.reg r := by
  obtain ⟨hrun, -, -⟩ := fastPath_does c s
  have hdisj : ∀ r ∈ solRegs, r ∉ [Reg.status] := by decide
  exact fun r hr => ran_reg hrun (hdisj r hr)

theorem slowPath_solRegs (c : Ctrl) (s : State) : ∀ r ∈ solRegs, (slowPath msc1 c s).reg r = s.reg r := by
  obtain ⟨first, second, es, -, hrun, -⟩ := slowPath_does c s
  have hdisj : ∀ r ∈ solRegs, r ∉ [Reg.waitcnt, .phase] := by decide
  exact fun r hr => ran_reg hrun (hdisj r hr)

theorem bankRead_solRegs (c : Ctrl) (s : State) : ∀ r ∈ solRegs, (bankRead c s).reg r = s.reg r := by
  obtain ⟨hrun, -, -⟩ := bankRead_does c s
  exact fun r _ => ran_reg hrun (List.not_mem_nil)

/-- Every path leaves the solution where it is. -/
theorem programClock_solRegs (c : Ctrl) (s : State) :
    ∀ r ∈ solRegs, (programClock msc1 c s).reg r = s.reg r := by
  intro r hr
  cases h : s.powerSensitive with
  | false => rw [programClock_insensitive c h, slowPath_solRegs c s r hr]
  | true =>
    rw [programClock_sensitive c h]
    split
    · rw [fastPath_solRegs c _ r hr, bankRead_solRegs c s r hr]
    · rw [slowPath_solRegs c _ r hr, bankRead_solRegs c s r hr]

/-! ### The command -/

/-- PLLPROG is the path choice over the solution written, between the prologue and the epilogue. -/
theorem pllprogBody_prologue (c : Ctrl) (s : State) :
    pllprogBody msc1 c (prologue s) = programClock msc1 c (solutionWritten c s) := rfl

/-- SOL_* as PLLPROG leaves them are as they were written. -/
theorem pllprog_solRegs (c : Ctrl) (s : State) :
    ∀ r ∈ solRegs, (frame (pllprogBody msc1 c) s).reg r = (solutionWritten c s).reg r := by
  intro r hr
  rw [frame_solRegs _ s r hr, pllprogBody_prologue, programClock_solRegs c _ r hr]

theorem pllprog_holdsSolution (c : Ctrl) (s : State) :
    HoldsSolution (s.solution msc1 c) (frame (pllprogBody msc1 c) s) :=
  holdsSolution_congr (pllprog_solRegs c s) (solutionWritten_holdsSolution c s)

/-- A divider operand is 0 as a number when it is 0 as a word. -/
theorem regNat_eq_zero_iff (s : State) (r : Reg) : s.regNat r = 0 ↔ s.reg r = 0 :=
  BitVec.toNat_inj (y := 0#32)

theorem postCode_le (v : Nat) : postCode v ≤ 7 := by
  unfold postCode
  split_ifs <;> decide

/-- The clock of honoured dividers, 0 for a zero divider (47_modeset.md R246). -/
theorem honoured_clk (c : Ctrl) (s : State) :
    BitVec.ofNat 32 (s.honoured msc1 c).clk =
      if s.reg .xRef = 0 ∨ s.reg .xPost = 0 then 0
      else BitVec.ofNat 32 (s.regNat (.dReffreq c) * s.regNat .xFb / (s.regNat .xRef * s.regNat .xPost)) := by
  simp only [State.honoured, regNat_eq_zero_iff]
  split_ifs <;> rfl

/-- Settles O42: the solution in SOL_* is the one PLLSOLVE writes, or the pre-supplied dividers'. -/
theorem pllprogWritesSolution : Obligations.PllprogWritesSolution := by
  intro c s
  obtain ⟨p, hsolve, hp, -, -⟩ := exec_pllsolve c s
  have ht := pllprog_holdsSolution c s
  refine ⟨frame (pllprogBody msc1 c) s, p, rfl, hsolve, fun hflag => ?solved, fun hflag => ?honoured⟩
  case solved =>
    have hsolution : s.solution msc1 c = s.solved msc1 c := if_neg (Bool.eq_false_iff.mp hflag)
    rw [hsolution] at ht
    exact holdsSolution_unique ht hp
  case honoured =>
    have hsolution : s.solution msc1 c = s.honoured msc1 c := if_pos hflag
    rw [hsolution] at ht
    obtain ⟨href, hfb, hfrac, hpost, hpcode, hclk, hgain⟩ := ht
    have hcode : (s.honoured msc1 c).pcode = postCode (s.regNat .xPost) := postCodeOf_msc1 _
    have hcodeLe := postCode_le (s.regNat .xPost)
    have hgainLe := gainOf_le (s.regNat (.dReffreq c)) (s.regNat .xRef) (s.regNat .xFb)
    rw [hcode] at hpcode
    exact ⟨href.trans (ofNat_regNat s _), hfb.trans (ofNat_regNat s _), hfrac,
      hpost.trans (ofNat_regNat s _), regNat_of_reg_eq_ofNat hpcode (by omega),
      hclk.trans (honoured_clk c s), regNat_of_reg_eq_ofNat hgain (by omega)⟩

/-! ### The two paths of a power-sensitive chip -/

/-- The machine when a power-sensitive chip has read its latched dividers back. -/
def readBack (c : Ctrl) (s : State) : State := bankRead c (solutionWritten c s)

/-- The first two words that PLLPROG reads are the first two that its own state presents. -/
theorem refDivRead_solutionWritten (c : Ctrl) (s : State) :
    refDivRead c (solutionWritten c s) = refDivRead c s :=
  readAt_of_drew (drew_solutionWritten c s) (solutionWritten_held c s _ _) _ 0

theorem fbPostRead_solutionWritten (c : Ctrl) (s : State) :
    fbPostRead c (solutionWritten c s) = fbPostRead c s :=
  readAt_of_drew (drew_solutionWritten c s) (solutionWritten_held c s _ _) _ 1

/-- The solution and the read-back are one run; what the two registers hold is counted from the state of
the command. -/
theorem readBack_does (c : Ctrl) (s : State) :
    Ran (.phase :: solRegs) [(.pr, prBlock c), (.pr, prBlock c + 1)] 2
        [.rd .pr (prBlock c) (refDivRead c s), .rd .pr (prBlock c + 1) (fbPostRead c s)]
        (prologue s) (readBack c s) ∧
      (readBack c s).held .pr (prBlock c) = some (heldAt s .pr (prBlock c) 0) ∧
      (readBack c s).held .pr (prBlock c + 1) = some (heldAt s .pr (prBlock c + 1) 1) := by
  obtain ⟨hrun, href, hfb⟩ := bankRead_does c (solutionWritten c s)
  have hstart := drew_solutionWritten c s
  rw [refDivRead_solutionWritten, fbPostRead_solutionWritten] at hrun
  rw [heldAt_of_drew hstart (solutionWritten_held c s _ _)] at href hfb
  exact ⟨ran_mono (ran_trans (ran_solutionWritten c s) hrun) (by simp) (by simp) rfl rfl, href, hfb⟩

theorem drew_readBack (c : Ctrl) (s : State) : Drew 2 0 s (readBack c s) := by
  obtain ⟨hrun, -, -⟩ := readBack_does c s
  simpa [Drew] using ran_drew hrun

/-- A register that holds a value keeps it when it is read. -/
theorem heldAt_of_held {s : State} {sp : Space} {a : Nat} {w : Word} (h : s.held sp a = some w) (n : Nat) :
    heldAt s sp a n = w := by
  rw [heldAt, h, Option.getD_some]

/-- The read-back touches no register of the bank but the two it reads. -/
theorem readBack_held (c : Ctrl) (s : State) {a : Nat} (href : a ≠ prBlock c) (hfb : a ≠ prBlock c + 1) :
    (readBack c s).held .pr a = s.held .pr a := by
  obtain ⟨hrun, -, -⟩ := readBack_does c s
  rw [ran_held hrun (by simp [href, hfb]), prologue_held]

/-- POWER_SENSITIVE is an operand (10_state.md R31), which nothing before the path choice writes. -/
theorem solutionWritten_powerSensitive (c : Ctrl) (s : State) :
    (solutionWritten c s).powerSensitive = testBit (s.reg .caps) 0 := by
  rw [State.powerSensitive, ran_reg (ran_solutionWritten c s) (by decide), prologue_reg,
    if_neg (by decide)]
  rfl

/-- The read-back compares with the solution that PLLPROG leaves in SOL_*. -/
theorem readBack_match_iff (c : Ctrl) (s : State) :
    triplesMatch msc1 (refDivRead c s) (fbPostRead c s) (readBack c s) = true ↔
      TripleLatched (frame (pllprogBody msc1 c) s) (refDivRead c s) (fbPostRead c s) := by
  rw [triplesMatch_iff]
  refine tripleLatched_congr (fun r hr => ?_) _ _
  rw [pllprog_solRegs c s r hr, readBack, bankRead_solRegs c _ r hr]

theorem pllprogBody_sensitive {c : Ctrl} {s : State} (h : testBit (s.reg .caps) 0 = true) :
    pllprogBody msc1 c (prologue s) =
      if triplesMatch msc1 (refDivRead c s) (fbPostRead c s) (readBack c s) then
        fastPath msc1 c (readBack c s)
      else slowPath msc1 c (readBack c s) := by
  rw [pllprogBody_prologue, programClock_sensitive c ((solutionWritten_powerSensitive c s).trans h),
    refDivRead_solutionWritten, fbPostRead_solutionWritten]
  rfl

/-- PLLPROG on the fast path (47_modeset.md R248): the read-back, then one write of CLK_SEL. -/
theorem pllprog_fast {c : Ctrl} {s : State}
    (hbody : pllprogBody msc1 c (prologue s) = fastPath msc1 c (readBack c s)) :
    let t := frame (pllprogBody msc1 c) s
    let old := readAt s .pr (prBlock c + 3) 0xFFFFFFFE#32 2
    Ran (solRegs ++ [.status, .phase])
        [(.pr, prBlock c), (.pr, prBlock c + 1), (.pr, prBlock c + 3)] 3
        ([.rd .pr (prBlock c) (refDivRead c s), .rd .pr (prBlock c + 1) (fbPostRead c s)] ++
          [rmwEvent .pr (prBlock c + 3) 0x00000001#32 0xFFFFFFFE#32 old]) s t ∧
      t.held .pr (prBlock c) = some (heldAt s .pr (prBlock c) 0) ∧
      t.held .pr (prBlock c + 1) = some (heldAt s .pr (prBlock c + 1) 1) ∧
      t.held .pr (prBlock c + 3) = some ((old &&& 0xFFFFFFFE#32) ||| 0x00000001#32) ∧
      Ended 0x00000102#32 t := by
  intro t old
  obtain ⟨hread, href, hfb⟩ := readBack_does c s
  obtain ⟨hpath, hclk, hstatus⟩ := fastPath_does c (readBack c s)
  have hold : readAt (readBack c s) .pr (prBlock c + 3) 0xFFFFFFFE#32 0 = old :=
    readAt_of_drew (drew_readBack c s) (readBack_held c s (by simp) (by simp)) _ 0
  rw [hold] at hpath hclk
  have hrun := ran_trans hread hpath
  rw [← hbody] at hrun
  refine ⟨ran_mono (ran_frame hrun) (by decide) (by simp) rfl rfl, ?_, ?_, ?_, ?_⟩
  · rw [frame_held, hbody, ran_held hpath (by simp), href]
  · rw [frame_held, hbody, ran_held hpath (by simp), hfb]
  · rw [frame_held, hbody, hclk]
  · refine frame_ended_of_status (status := 1#32 ||| bitWord statusFast) ?_
    rw [hbody, hstatus, ran_reg hread (by decide), prologue_reg, if_pos rfl]

/-- PLLPROG on the slow path (47_modeset.md R249, R250): the read-back, then the commit, whose first read
is the third of the command, and the settle delay. -/
theorem pllprog_slow {c : Ctrl} {s : State}
    (hbody : pllprogBody msc1 c (prologue s) = slowPath msc1 c (readBack c s)) :
    let t := frame (pllprogBody msc1 c) s
    ∃ first second es,
      CommitShape s t c 2 (heldAt s .pr (prBlock c) 0) (heldAt s .pr (prBlock c + 1) 1) first second es ∧
      Ran (solRegs ++ [.waitcnt, .status, .phase])
        [(.pr, prBlock c), (.pr, prBlock c + 1), (.pr, prBlock c + 2)]
        (2 + first.length + 5 + second.length)
        ([.rd .pr (prBlock c) (refDivRead c s), .rd .pr (prBlock c + 1) (fbPostRead c s)] ++
          (es ++ [.delay 50])) s t ∧
      t.regNat .waitcnt = second.length ∧ Ended 0x00000002#32 t := by
  intro t
  obtain ⟨hread, href, hfb⟩ := readBack_does c s
  obtain ⟨first, second, es, hshape, hpath, hcount⟩ := slowPath_does c (readBack c s)
  have hcntl : (readBack c s).held .pr (prBlock c + 2) = s.held .pr (prBlock c + 2) :=
    readBack_held c s (by simp) (by simp)
  rw [heldAt_of_held href, heldAt_of_held hfb] at hshape
  have hrun := ran_trans hread hpath
  rw [← hbody] at hshape hcount hrun
  refine ⟨first, second, es, ?_, ran_mono (ran_frame hrun) (by decide) (by simp) (by omega) rfl, ?_,
    frame_ended (ran_reg hrun (by decide))⟩
  · exact commitShape_congr (frame_solRegs _ s) (fun a => frame_held _ _ _ _)
      (commitShape_of_drew (drew_readBack c s) hcntl hshape)
  · rw [State.regNat, frame_reg, if_neg (by decide), if_neg (by decide)]
    exact hcount

/-- Settles O43: the read-back and the fields of SOL_* choose between the two runs. -/
theorem pllprogPowerSensitivePaths : Obligations.PllprogPowerSensitivePaths := by
  intro c s hcaps
  by_cases hmatch : TripleLatched (frame (pllprogBody msc1 c) s) (refDivRead c s) (fbPostRead c s)
  · have hbody := (pllprogBody_sensitive hcaps).trans (if_pos ((readBack_match_iff c s).mpr hmatch))
    obtain ⟨⟨hregs, hwords, hcollab, hhost, hdrew, htrace⟩, href, hfb, hclk, hended⟩ := pllprog_fast hbody
    exact ⟨_, _, _, _, rfl, rfl, rfl, htrace.trans (List.append_assoc _ _ _).symm,
      (if_pos hmatch).mpr ⟨⟨_, rfl, rfl, hclk⟩, href, hfb, hended, hregs, hwords, hdrew⟩, hcollab, hhost⟩
  · have hbody := (pllprogBody_sensitive hcaps).trans (if_neg (mt (readBack_match_iff c s).mp hmatch))
    obtain ⟨first, second, es, hshape, ⟨hregs, hwords, hcollab, hhost, hdrew, htrace⟩, hcount, hended⟩ :=
      pllprog_slow hbody
    exact ⟨_, _, _, _, rfl, rfl, rfl, htrace.trans (List.append_assoc _ _ _).symm,
      (if_neg hmatch).mpr ⟨⟨first, second, es, hshape, rfl, hcount, hdrew⟩, hended, hregs, hwords⟩,
      hcollab, hhost⟩

end Sys2Proof.Proofs.Clock
end

section
/-! The core registers at reset (70_reset_and_hazards.md R301, R303) and the reserved indices (10_state.md
R23): what `HostRead` finds at each index. -/

namespace Sys2Proof.Proofs.Reset

open Sys2Proof Sys2Proof.Machine

/-- An index of the register file reads the word held there (10_state.md R21). -/
theorem readIndex_of_lt (s : State) {i : Nat} (h : i < 74) : s.readIndex i = s.regs[i] := by
  simp [State.readIndex, h]

/-- A reserved index reads 0 in every state (10_state.md R23). -/
theorem readIndex_of_reserved (s : State) {i : Nat} (h : 74 ≤ i) : s.readIndex i = 0 :=
  List.getD_eq_default _ _ (by simpa using h)

/-- The register file at reset is 0 but for the two PWR registers, which hold Blanked
(70_reset_and_hazards.md R301). -/
theorem reset_regs_getElem {i : Nat} (h : i < 74) :
    State.reset.regs[i] = if i = 37 ∨ i = 45 then 1 else 0 := by
  calc State.reset.regs[i]
      = if 45 = i then 1 else if 37 = i then 1 else 0 := by
        simp only [State.reset, Vector.getElem_set, Vector.getElem_replicate]
        rfl
    _ = if 45 = i ∨ 37 = i then 1 else 0 := (ite_or _ _ _ _).symm
    _ = if i = 37 ∨ i = 45 then 1 else 0 := if_congr (by omega) rfl rfl

/-- Settles O10: an index below 74 reads its entry of the reset file, and the reserved ones read 0. -/
theorem resetValues : Obligations.ResetValues := by
  refine ⟨fun i _ => ?_, fun s i => readIndex_of_reserved s, rfl⟩
  by_cases h : i < 74
  · rw [readIndex_of_lt _ h, reset_regs_getElem h]
  · have hne : ¬ (i = 37 ∨ i = 45) := by omega
    rw [readIndex_of_reserved _ (by omega), if_neg hne]

end Sys2Proof.Proofs.Reset
end
section
/-! The encoder against the decoder (30_encoding.md R97, R100): the fields of an instruction's word are the
instruction's, and the fields determine the word. -/

namespace Sys2Proof.Proofs.RoundTrip

open Sys2Proof Sys2Proof.Machine Sys2Proof.Safety Sys2Proof.Laws Sys2Proof.Proofs.Encoding

/-- The word of an instruction has the instruction's fields (30_encoding.md R93). -/
theorem rawOfWord_encode (i : Instr) : rawOfWord (encode i) = i.raw := by
  have hfields : EncodedFields.Statement i := by
    cases i with
    | pllsolve c => exact EncodedFields.pllsolve c
    | gaincls => exact EncodedFields.gaincls
    | scalcomp => exact EncodedFields.scalcomp
    | timpack c v => exact EncodedFields.timpack c v
    | pllcommit c => exact EncodedFields.pllcommit c
    | dpmsset c l => exact EncodedFields.dpmsset c l
    | modeset c => exact EncodedFields.modeset c
    | setbase c => exact EncodedFields.setbase c
    | timprog c => exact EncodedFields.timprog c
    | pllprog c => exact EncodedFields.pllprog c
    | bwnotify c => exact EncodedFields.bwnotify c
    | scalprog c => exact EncodedFields.scalprog c
  obtain ⟨hraw, -, -⟩ := hfields
  exact hraw

/-- A word decodes to an instruction exactly when it is the instruction's word. -/
theorem decode_eq_instr_iff_eq_encode (w : Word) (i : Instr) : decode w = .instr i ↔ w = encode i := by
  rw [decode_eq_instr_iff, ← rawOfWord_encode, rawOfWord_injective.eq_iff]

/-- Settles O3: both directions are the one equivalence. -/
theorem decodeEncodeAgree : Obligations.DecodeEncodeAgree :=
  ⟨fun i => (decode_eq_instr_iff_eq_encode (encode i) i).mpr rfl,
    fun w i => (decode_eq_instr_iff_eq_encode w i).mp⟩

/-- Settles O2: each of the thirty words is the word of its command. -/
theorem specWordsDecode : Obligations.SpecWordsDecode := by
  unfold Obligations.SpecWordsDecode
  simp only [decode_eq_instr_iff_eq_encode]
  decide

end Sys2Proof.Proofs.RoundTrip
end

section
/-! What the host does with the core (10_state.md R21 to R23, 30_encoding.md R90 to R92): the one step of each
host operation, and what reads, writes and a reset change. -/

namespace Sys2Proof.Proofs.Stepping

open Sys2Proof Sys2Proof.Machine Sys2Proof.Safety Sys2Proof.Laws Sys2Proof.Proofs.Reset

/-! ### The step of each host operation -/

/-- A step performs the coming host operation on the machine with that operation taken from the list. -/
theorem step_of_host {s : State} {op : HostOp} {rest : List HostOp} (h : s.host = op :: rest) :
    step s = hostStep exec op { s with host := rest } := by
  have hpop : s.popHost = { s with host := rest } := by rw [State.popHost, h]; rfl
  simp only [step, stepWith, h, hpop]

theorem step_of_host_nil {s : State} (h : s.host = []) : step s = .next s := by
  simp only [step, stepWith, h]

theorem hostAccess_idle (access : State → State) {s : State} (h : s.busy = false) :
    hostAccess access s = .next (access s) := by
  simp [hostAccess, h]

theorem hostAccess_busy (access : State → State) {s : State} (h : s.busy = true) :
    hostAccess access s = .refused .hostAccessWhileBusy := by
  simp [hostAccess, h]

theorem issueWord_busy (w : Word) {s : State} (h : s.busy = true) :
    issueWord exec w s = .refused .issueWhileBusy := by
  simp [issueWord, h]

/-- Issuing a legal word while no command runs is the command. -/
theorem issueWord_instr {w : Word} {i : Instr} {s : State} (h : s.busy = false)
    (hw : decode w = .instr i) : issueWord exec w s = exec i s := by
  simp [issueWord, h, hw]

/-- Issuing any other word while no command runs is the illegal command. -/
theorem issueWord_illegal {w : Word} {why : IllegalWord} {s : State} (h : s.busy = false)
    (hw : decode w = .illegal why) : issueWord exec w s = .next (illegalCommand s) := by
  simp [issueWord, h, hw]

/-- Settles O1: the issued word decodes to the command, which is run on the rest of the host's list. -/
theorem stepRunsDecodedCommand : Obligations.StepRunsDecodedCommand := by
  intro s w rest i hhost hidle hw
  rw [step_of_host hhost]
  exact issueWord_instr hidle hw

/-- Settles O8: BUSY is tested before anything else is done. -/
theorem busyCoreRefusesHost : Obligations.BusyCoreRefusesHost := by
  intro s rest hbusy
  refine ⟨fun w hhost => ?_, fun i hhost => ?_, fun i v hhost => ?_⟩ <;> rw [step_of_host hhost]
  · exact issueWord_busy w hbusy
  · exact hostAccess_busy _ hbusy
  · exact hostAccess_busy _ hbusy

/-! ### Every command is a body in the frame -/

/-- What a command does between its prologue and its epilogue. -/
def commandBody : Instr → State → State
  | .pllsolve c => pllsolveBody msc1 c
  | .gaincls => gainclsBody msc1
  | .scalcomp => scalcompBody msc1
  | .timpack c v => timpackBody msc1 c v
  | .pllcommit c => commitSolution msc1 c
  | .dpmsset c level => dpmssetBody msc1 c level
  | .modeset c => modesetBody msc1 c
  | .setbase c => setbaseBody msc1 c
  | .timprog c => timprogBody msc1 c
  | .pllprog c => pllprogBody msc1 c
  | .bwnotify c => bwnotifyBody c
  | .scalprog c => scalprogBody msc1 c

/-- Every command gives a next state, the frame around its body (30_encoding.md R91, R92). -/
theorem exec_eq_frame (i : Instr) (s : State) : exec i s = .next (frame (commandBody i) s) := by
  cases i <;> rfl

/-- What a command answers is the frame around its body. -/
theorem eq_frame_of_exec {i : Instr} {s t : State} (h : exec i s = .next t) :
    t = frame (commandBody i) s := by
  rw [exec_eq_frame] at h
  exact (Host.Outcome.next.inj h).symm

/-- What the host can do to the core while no command runs gives a next state. -/
theorem hostStep_next (op : HostOp) {s : State} (h : s.busy = false) :
    ∃ t, hostStep exec op s = .next t := by
  cases op with
  | read i => exact ⟨_, hostAccess_idle _ h⟩
  | write i v => exact ⟨_, hostAccess_idle _ h⟩
  | issue w =>
    cases hw : decode w with
    | instr i => exact ⟨_, (issueWord_instr h hw).trans (exec_eq_frame i s)⟩
    | illegal why => exact ⟨_, issueWord_illegal h hw⟩
  | reset => exact ⟨_, rfl⟩

/-- Settles O9: with a host operation by the operation, with none the core waits. -/
theorem coreNeverStopsUnlessBusy : Obligations.CoreNeverStopsUnlessBusy := by
  intro s hidle
  refine ⟨?_, step_of_host_nil⟩
  cases hhost : s.host with
  | nil => exact ⟨s, step_of_host_nil hhost⟩
  | cons op rest =>
    rw [step_of_host hhost]
    exact hostStep_next op hidle

/-! ### `HostRead` and `HostWrite` -/

/-- A named register is read at its index. -/
theorem readIndex_index (s : State) (r : Reg) : s.readIndex (Reg.index r).val = s.reg r :=
  readIndex_of_lt s (Reg.index r).isLt

/-- What every index reads after `HostWrite(i, v)` (10_state.md R22, R23). -/
theorem hostWrite_readIndex (i : Fin 128) (v : Word) (s : State) (j : Nat) :
    (hostWrite i v s).readIndex j =
      if j = i.val ∧ hostWritable j = true then v else s.readIndex j := by
  by_cases hi : i.val < 74
  · by_cases hw : hostWritable i.val = true
    · have hwrite : hostWrite i v s = { s with regs := s.regs.set i.val v } := by
        rw [hostWrite, dif_pos hi, if_pos hw]
      rw [hwrite]
      by_cases hj : j < 74
      · rw [readIndex_of_lt _ hj, readIndex_of_lt _ hj, Vector.getElem_set]
        by_cases e : j = i.val
        · simp [e, hw]
        · simp [e, Ne.symm e]
      · rw [readIndex_of_reserved _ (by omega), readIndex_of_reserved _ (by omega), if_neg (by omega)]
    · rw [hostWrite, dif_pos hi, if_neg hw, if_neg]
      rintro ⟨rfl, h⟩
      exact hw h
  · have hro : hostWritable i.val = false := by simp [hostWritable]; omega
    rw [hostWrite, dif_neg hi, if_neg]
    rintro ⟨rfl, h⟩
    rw [hro] at h
    nomatch h

/-- `HostWrite` changes the register file alone. -/
theorem hostWrite_does (i : Fin 128) (v : Word) (s : State) :
    hostWrite i v s = { s with regs := (hostWrite i v s).regs } := by
  unfold hostWrite
  split_ifs <;> rfl

theorem hostWritable_iff (i : Nat) : hostWritable i = true ↔ i ≤ 36 ∨ (40 ≤ i ∧ i ≤ 44) := by
  simp [hostWritable]

/-- Settles O6: an index below 74 is written if the host may write it, and no other index reads anew. -/
theorem hostWriteReachesOperandsOnly : Obligations.HostWriteReachesOperandsOnly := by
  intro s i v rest hhost hidle
  refine ⟨hostWrite i v { s with host := rest }, ?_, fun j _ => ?_, hostWrite_does i v _⟩
  · rw [step_of_host hhost]
    exact hostAccess_idle _ hidle
  · rw [hostWrite_readIndex]
    exact if_congr (and_congr_right fun _ => hostWritable_iff j) rfl rfl

/-- Settles O7: the host receives what the index reads, a named register or a reserved 0. -/
theorem hostReadAnswersRegister : Obligations.HostReadAnswersRegister := by
  intro s i rest hhost hidle
  refine ⟨s.readIndex i.val, ?_, fun r hr => ?_, readIndex_of_reserved s⟩
  · rw [step_of_host hhost]
    exact hostAccess_idle _ hidle
  · rw [← hr, readIndex_index]

/-! ### The host's reset -/

/-- Settles O11: the reset replaces the register file and empties the trace with its palette counts. -/
theorem hostResetTouchesCoreOnly : Obligations.HostResetTouchesCoreOnly := by
  intro s rest hhost
  refine ⟨coreReset { s with host := rest }, step_of_host hhost, fun r => rfl, rfl, rfl, rfl,
    fun sp a _ => ?_, rfl, rfl, rfl, rfl, rfl, rfl⟩
  cases sp <;> rfl

end Sys2Proof.Proofs.Stepping
end
section
/-! The two bus primitives that read (20_memory.md R63 to R69, R76): what the word read is outside and inside
the hardware-owned bits, and what else changes. -/

namespace Sys2Proof.Proofs.Bus

open Sys2Proof Sys2Proof.Machine Sys2Proof.Safety Sys2Proof.Laws Sys2Proof.Proofs.Dpms

/-- Inside the hardware-owned bits a read presents what is drawn (20_memory.md R76). -/
theorem presented_inside (owned held draw : Word) : presented owned held draw &&& owned = draw &&& owned := by
  apply BitVec.eq_of_getLsbD_eq
  intro i hi
  simp only [presented, BitVec.getLsbD_or, BitVec.getLsbD_and, BitVec.getLsbD_not]
  cases owned.getLsbD i <;> simp

theorem readAt_and_owned (s : State) (sp : Space) (a : Nat) (owned : Word) (n : Nat) :
    readAt s sp a owned n &&& owned = drawAt s n &&& owned := presented_inside _ _ _

/-- Settles O19: the word read is the one presented, and the read is a run of one event. -/
theorem busReadAnswers : Obligations.BusReadAnswers := by
  intro sp a owned s v t
  obtain ⟨hregs, hheld, hcollab, hhost, hdrew, htrace⟩ := ran_busRead sp a owned s
  have hv : v = readAt s sp a owned 0 := readValue_eq_readAt s sp a owned
  have hself : t.held sp a = some (heldAt s sp a 0) := by
    rw [busRead_held, if_pos ⟨rfl, rfl⟩]
    rfl
  refine ⟨fun w hw => ⟨?_, ?_, ?_⟩, fun hnone => ?_, hregs, hheld, htrace, hcollab, hhost, hdrew⟩
  · rw [hv]
    exact readAt_answers s sp a owned 0 w hw
  · rw [hv, readAt_and_owned, drawAt_zero]
  · rw [hself, heldAt, hw, Option.getD_some]
  · have hdraw : v = s.nextRead := readValue_none owned hnone
    exact ⟨hdraw, by rw [hself, heldAt, hnone, hdraw, Option.getD_none, drawAt_zero]⟩

/-- Settles O54: the word read is the one presented, and the write is `rmwWord` of it. -/
theorem busRmwAnswers : Obligations.BusRmwAnswers := by
  intro sp a owned v keep s t
  obtain ⟨hregs, hheld, hcollab, hhost, hdrew, htrace⟩ := ran_busRmw sp a owned v keep s
  have hself : t.held sp a = some (rmwWord (s.readValue sp a owned) v keep) := by
    rw [busRmw_held, if_pos ⟨rfl, rfl⟩]
  rw [readValue_eq_readAt] at htrace hself
  exact ⟨readAt s sp a owned 0,
    fun w hw => ⟨readAt_answers s sp a owned 0 w hw, readAt_and_owned s sp a owned 0⟩,
    fun hnone => readAt_of_held_none hnone owned 0, hself, htrace, hregs, hheld, hcollab, hhost, hdrew⟩

/-- Settles O20: the masks of the configuration, register by register. -/
theorem hardwareOwnedBits : Obligations.HardwareOwnedBits := by
  refine ⟨drOwned_ctl_primary, drOwned_ctl_secondary, drOwned_horzStretch _, drOwned_vertStretch _,
    drOwned_centerCntl _, prOwned_pllRefDiv, prOwned_pllFbPost, prOwned_pllCntl, prOwned_clkSel,
    fun c => ?_⟩
  simp [drOwned]

end Sys2Proof.Proofs.Bus
end

section
/-! DPMSSET run twice and the word it reads (46_dpms.md R223 to R227): Off sets the bits that On clears, and
only On reloads the palette. -/

namespace Sys2Proof.Proofs.Blanking

open Sys2Proof Sys2Proof.Machine Sys2Proof.Safety Sys2Proof.Laws Sys2Proof.Proofs.Dpms

/-- Settles O55: DPMSSET's run makes the one read-modify-write, and the reload follows it. -/
theorem dpmssetReadsCtl : Obligations.DpmssetReadsCtl := by
  intro c level s
  obtain ⟨u, hexec, ⟨-, -, -, -, -, htrace⟩, -⟩ := exec_dpmsset c level s
  exact ⟨reloadIfOn c level u, hexec, by rw [reloadIfOn_trace, htrace]⟩

/-- A bit that a read-modify-write does not keep is the bit written (20_memory.md R65). -/
theorem getLsbD_keep_or {keep : Word} {i : Nat} (h : keep.getLsbD i = false) (old v : Word) :
    ((old &&& keep) ||| v).getLsbD i = v.getLsbD i := by
  simp [h]

/-- Under a mask that is not kept stands the value written. -/
theorem keep_or_and_mask {keep mask : Word} (h : keep &&& mask = 0) (old v : Word) :
    ((old &&& keep) ||| v) &&& mask = v &&& mask := by
  have hsplit : ((old &&& keep) ||| v) &&& mask = (old &&& (keep &&& mask)) ||| (v &&& mask) := by
    rw [BitVec.and_or_distrib_right, BitVec.and_assoc]
  rw [hsplit, h, BitVec.ofNat_eq_ofNat, BitVec.and_zero, BitVec.zero_or]

/-- The disable bits are not among the kept ones (46_dpms.md R223, R224). -/
theorem ctlKeep_and_disable (c : Ctrl) : ctlKeep c &&& 0x00000070#32 = 0 := by
  cases c <;> decide

/-- The level decides the disable bits. -/
theorem ctlValue_and_disable (c : Ctrl) (level : Level) :
    ctlValue c level &&& 0x00000070#32 = if level = .on then 0 else 0x00000070#32 := by
  cases c <;> cases level <;> decide

/-- CTRL_EN and REQ_BLANK of the primary are those of the value written (46_dpms.md R223). -/
theorem primary_enable_blank (old : Word) (level : Level) :
    testBit ((old &&& ctlKeep .primary) ||| ctlValue .primary level) 0 = true ∧
      testBit ((old &&& ctlKeep .primary) ||| ctlValue .primary level) 1 = !decide (level = .on) := by
  unfold testBit
  rw [getLsbD_keep_or (by decide), getLsbD_keep_or (by decide)]
  cases level <;> decide

/-- A DPMSSET adds a palette reload of its controller at level On and none at another. -/
theorem count_palette_dpmsset {c : Ctrl} {level : Level} {old : Word} {s t : State}
    (h : t.trace = s.trace ++ [rmwEvent .dr (drBlock c) (ctlValue c level) (ctlKeep c) old] ++
      if level = .on then [.palette c] else []) :
    t.trace.count (.palette c) = s.trace.count (.palette c) + if level = .on then 1 else 0 := by
  rw [h]
  split_ifs <;> simp [rmwEvent]

/-- Settles O36: two DPMSSETs, each with its value in CTL and its own palette count. -/
theorem dpmsOffThenOnRestores : Obligations.DpmsOffThenOnRestores := by
  intro c s
  obtain ⟨t, old, hoff, -, -, -, hheld, htrace, hpwr, -⟩ := dpmssetWritesCtl c .off s
  obtain ⟨u, old', hon, -, -, -, hheld', htrace', hpwr', -⟩ := dpmssetWritesCtl c .on t
  have hcount := count_palette_dpmsset htrace
  have hcount' := count_palette_dpmsset htrace'
  rw [hcount] at hcount'
  refine ⟨t, u, _, _, hoff, hon, hheld, hheld', ?_, ?_, ?_, hpwr, hpwr', hcount, hcount'⟩
  · rw [keep_or_and_mask (ctlKeep_and_disable c), ctlValue_and_disable, if_neg (by decide)]
  · rw [keep_or_and_mask (ctlKeep_and_disable c), ctlValue_and_disable, if_pos rfl]
  · rintro rfl
    obtain ⟨hen, hblank⟩ := primary_enable_blank old .off
    obtain ⟨hen', hblank'⟩ := primary_enable_blank old' .on
    exact ⟨hblank, hblank', hen, hen'⟩

end Sys2Proof.Proofs.Blanking
end

section
/-! PLLSOLVE without a candidate, and what its solution depends on (41_pll_solver.md R110, R119, R120). -/

namespace Sys2Proof.Proofs.SolverEdges

open Sys2Proof Sys2Proof.Machine Sys2Proof.Safety Sys2Proof.Laws Sys2Proof.Proofs.Solver
  Sys2Proof.Proofs.Clock

/-- No candidate, so an empty search list and the fixed solution (41_pll_solver.md R119). -/
theorem solved_of_no_candidate {s : State} {c : Ctrl} (h : ∀ r f i p, ¬ IsCandidate s c r f i p) :
    s.solved msc1 c = emptySolution msc1 := by
  have hnil : searchList s c = [] :=
    List.eq_nil_iff_forall_not_mem.mpr fun x hx => h _ _ _ _ ((mem_searchList_iff s c x).mp hx)
  rw [searchList] at hnil
  rw [State.solved, solve, hnil]

/-- The two causes of R119: no reference divider, or no feedback divider. -/
theorem not_isCandidate_of_empty {s : State} {c : Ctrl}
    (h : (testBit (s.reg .fSolve) 2 = false ∧ s.regNat (.dMaxref c) = 0) ∨
      s.regNat (.dMaxfb c) < s.regNat (.dMinfb c)) (r f i p : Nat) : ¬ IsCandidate s c r f i p := by
  rintro ⟨href, ⟨hmin, hmax⟩, -⟩
  rcases h with ⟨hovr, hzero⟩ | hempty
  · rw [if_neg (by simp [hovr])] at href
    omega
  · omega

/-- Settles O24: PLLSOLVE writes the fixed solution when there is no candidate. -/
theorem pllsolveNoCandidate : Obligations.PllsolveNoCandidate := by
  intro c s h
  obtain ⟨t, hexec, hholds, hended, hpure⟩ := exec_pllsolve c s
  rw [solved_of_no_candidate (not_isCandidate_of_empty h)] at hholds
  obtain ⟨href, hfb, hfrac, hpost, hpcode, hclk, hgain⟩ := hholds
  exact ⟨t, hexec, href, hfb, hfrac, hpost, hpcode, hclk, hgain, hended, hpure⟩

/-- The low bits of a word are the bits of the number they make. -/
theorem testBit_of_bitsAt (w : Word) {n k : Nat} (h : k < n) :
    testBit w k = (bitsAt w n 0).testBit k := by
  rw [bitsAt, pow_zero, Nat.div_one, Nat.testBit_mod_two_pow, BitVec.testBit_toNat]
  simp [h, testBit]

/-- The solver flags are a function of F_SOLVE[3:0]. -/
theorem solveFlagsOf_congr {v w : Word} (h : bitsAt v 4 0 = bitsAt w 4 0) :
    solveFlagsOf v = solveFlagsOf w := by
  have hbit : ∀ k < 4, testBit v k = testBit w k := fun k hk => by
    rw [testBit_of_bitsAt v hk, testBit_of_bitsAt w hk, h]
  simp only [solveFlagsOf, hbit solvePrefHighFb (by decide), hbit solvePrefLowRef (by decide),
    hbit solveUseRefOvr (by decide), hbit solveNoOddPost (by decide)]

/-- Settles O25: the two solutions are equal, and PLLSOLVE writes each where it is found. -/
theorem pllsolveDependsOnOperandsOnly : Obligations.PllsolveDependsOnOperandsOnly := by
  intro c s s' hregs hflags
  obtain ⟨t, hexec, hholds, -, -⟩ := exec_pllsolve c s
  obtain ⟨t', hexec', hholds', -, -⟩ := exec_pllsolve c s'
  have hsolved : s.solved msc1 c = s'.solved msc1 c := by
    simp only [List.forall_mem_cons] at hregs
    simp only [State.solved, State.descriptor, State.regNat, hregs, solveFlagsOf_congr hflags]
  rw [hsolved] at hholds
  exact ⟨t, t', hexec, hexec', holdsSolution_unique hholds hholds'⟩

end Sys2Proof.Proofs.SolverEdges
end

section
/-! The two forms of a stretch word (43_scaler.md R142, R145, R146, R150, R151): the size alone, or ratio,
enable, blend and the panel's size for a mode smaller than the panel. -/

namespace Sys2Proof.Proofs.Stretch

open Sys2Proof Sys2Proof.Machine Sys2Proof.Safety Sys2Proof.Laws Sys2Proof.Proofs.Scaler

/-- A stretch word that a scaler result can hold for an axis of a mode and a panel. -/
inductive AxisWord (size panel : Nat) (inc : Bool) (panelSize : Int) : Word → Prop
  | disabled (field : Int) : AxisWord size panel inc panelSize (disabledStretch msc1 field)
  | enabled (h : size < panel) : AxisWord size panel inc panelSize
      (enabledStretch msc1 (stretchRatioOf 4096 size panel inc) panelSize)

theorem hStretch_axisWord (w pw : Nat) (inc : Bool) :
    AxisWord w pw inc (hSize msc1 pw) (hStretch msc1 (min w pw) pw inc) := by
  unfold hStretch
  split_ifs with h
  · exact .disabled _
  · rw [Nat.min_eq_left (by omega)]
    exact .enabled (by omega)

theorem vStretch_axisWord (h ph : Nat) (inc : Bool) :
    AxisWord h ph inc (vSize ph) (vStretch msc1 (min h ph) ph inc) := by
  unfold vStretch
  split_ifs with e
  · exact .disabled _
  · rw [Nat.min_eq_left (by omega)]
    exact .enabled (by omega)

/-- Every result of the scaler has stretch words of these forms. -/
theorem scaler_axisWords (m : DisplayMode) (pw ph : Nat) (pol : Policy) (hinc vinc : Bool) :
    AxisWord m.hdisplay pw hinc (hSize msc1 pw) (scaler msc1 m pw ph pol hinc vinc).hstr ∧
      AxisWord m.vdisplay ph vinc (vSize ph) (scaler msc1 m pw ph pol hinc vinc).vstr := by
  by_cases hpanel : pw = 0 ∨ ph = 0
  · rw [scaler_no_panel _ _ _ _ _ hpanel]
    exact ⟨.disabled _, .disabled _⟩
  · cases pol with
    | off =>
      rw [scaler_off]
      exact ⟨.disabled _, .disabled _⟩
    | full =>
      rw [scaler_full _ _ _ _ hpanel]
      exact ⟨hStretch_axisWord _ _ _, vStretch_axisWord _ _ _⟩
    | aspect =>
      rw [scaler_aspect _ _ _ _ hpanel]
      exact ⟨hStretch_axisWord _ _ _, vStretch_axisWord _ _ _⟩
    | center =>
      rw [scaler_center _ _ _ _ hpanel]
      exact ⟨.disabled _, .disabled _⟩

/-! ### The bits of the two forms -/

theorem testBit_iff (w : Word) (k : Nat) : testBit w k = true ↔ w.toNat / 2 ^ k % 2 = 1 := by
  rw [testBit_eq, beq_iff_eq, bitsAt, pow_one]

/-- A disabled axis has no bit below its size field. -/
theorem disabledStretch_bits (field : Int) :
    testBit (disabledStretch msc1 field) 13 = false ∧ testBit (disabledStretch msc1 field) 14 = false ∧
      bitsAt (disabledStretch msc1 field) 13 0 = 0 := by
  have hvalue := disabledStretch_value field
  simp only [← Bool.not_eq_true, testBit_iff, bitsAt]
  omega

/-- An enabled axis with a ratio that fits its field. -/
theorem enabledStretch_bits {ratio : Nat} (h : ratio ≤ 4096) (size : Int) :
    testBit (enabledStretch msc1 ratio size) 13 = true ∧
      testBit (enabledStretch msc1 ratio size) 14 = true ∧
      bitsAt (enabledStretch msc1 ratio size) 13 0 = ratio ∧
      (bitsAt (enabledStretch msc1 ratio size) 16 16 : Int) = size % 2 ^ 16 := by
  have hvalue := enabledStretch_value ratio size
  rw [Nat.mod_eq_of_lt (show ratio < 2 ^ 13 by omega)] at hvalue
  simp only [testBit_iff, bitsAt]
  omega

/-- The ratio is the least number of 1/4096 of the panel that reaches the size (43_scaler.md R151). -/
theorem stretchRatioOf_le_iff {size panel : Nat} (hpanel : 0 < panel) (inc : Bool) (n : Nat) :
    stretchRatioOf 4096 size panel inc ≤ n ↔ (size + if inc then 1 else 0) * 4096 ≤ n * panel := by
  have hinc : inc.toNat = if inc then 1 else 0 := by cases inc <;> rfl
  rw [stretchRatioOf, ceilDiv, ← Nat.ceilDiv_eq_add_pred_div, ceilDiv_le_iff_le_mul hpanel, hinc,
    Nat.mul_comm panel]

/-- The ratio of a mode smaller than the panel is at most 1 (43_scaler.md R150). -/
theorem stretchRatioOf_le {size panel : Nat} (h : size < panel) (inc : Bool) :
    stretchRatioOf 4096 size panel inc ≤ 4096 := by
  rw [stretchRatioOf_le_iff (by omega)]
  split_ifs <;> omega

/-- What R150 and R151 say of a stretch word: enable equals blend, and an enabled axis has a mode size below
the panel size, the panel's size field, and the least ratio. -/
def AxisRatio (size panel : Nat) (inc : Bool) (panelSize : Int) (w : Word) : Prop :=
  testBit w 13 = testBit w 14 ∧
  (testBit w 13 = true →
    size < panel ∧ (bitsAt w 16 16 : Int) = panelSize % 2 ^ 16 ∧
    (size + if inc then 1 else 0) * 4096 ≤ bitsAt w 13 0 * panel ∧
    (∀ n, (size + if inc then 1 else 0) * 4096 ≤ n * panel → bitsAt w 13 0 ≤ n) ∧
    bitsAt w 13 0 ≤ 4096)

theorem axisRatio_of_axisWord {size panel : Nat} {inc : Bool} {panelSize : Int} {w : Word}
    (h : AxisWord size panel inc panelSize w) : AxisRatio size panel inc panelSize w := by
  cases h with
  | disabled field =>
    obtain ⟨henable, hblend, -⟩ := disabledStretch_bits field
    exact ⟨henable.trans hblend.symm, fun h => absurd (henable.symm.trans h) (by decide)⟩
  | enabled hlt =>
    have hratio := stretchRatioOf_le hlt inc
    have hleast := stretchRatioOf_le_iff (size := size) (Nat.zero_lt_of_lt hlt) inc
    obtain ⟨henable, hblend, hfield, hsize⟩ := enabledStretch_bits hratio panelSize
    refine ⟨henable.trans hblend.symm, fun _ => ⟨hlt, hsize, ?_, fun n hn => ?_, ?_⟩⟩ <;> rw [hfield]
    · exact (hleast _).mp le_rfl
    · exact (hleast n).mpr hn
    · exact hratio

/-- Every stretch word is legal in the sense of the invariant (43_scaler.md R150, R151). -/
theorem stretchLegal_of_axisWord {size panel : Nat} {inc : Bool} {panelSize : Int} {w : Word}
    (h : AxisWord size panel inc panelSize w) : stretchLegal w := by
  have hautoInc : ∀ v : Word, v &&& 0x00008000#32 = 0 → testBit v 15 = false := by
    intro v hv
    have hbit := congrArg (BitVec.getLsbD · 15) hv
    simpa [testBit] using hbit
  cases h with
  | disabled field =>
    obtain ⟨henable, hblend, hratio⟩ := disabledStretch_bits field
    exact ⟨hautoInc _ (disabledStretch_autoInc field), henable.trans hblend.symm, fun _ => hratio,
      by rw [hratio]; decide⟩
  | enabled hlt =>
    have hratio := stretchRatioOf_le hlt inc
    obtain ⟨henable, hblend, hfield, -⟩ := enabledStretch_bits hratio panelSize
    exact ⟨hautoInc _ (enabledStretch_autoInc _ _), henable.trans hblend.symm,
      fun h => absurd (henable.symm.trans h) (by decide), by rw [hfield]; exact hratio⟩

/-- Settles O29: each word of SCALCOMP has one of the two forms, and without a panel both are disabled. -/
theorem stretchWordInvariants : Obligations.StretchWordInvariants := by
  intro s
  obtain ⟨t, hexec, hholds, -, -⟩ := exec_scalcomp s
  obtain ⟨hhword, hvword⟩ := scaler_axisWords s.mode (s.regNat .pW) (s.regNat .pH)
    (policyOf (s.reg .sPolicy)) (hincOf s) (vincOf s)
  have hholds' := hholds
  obtain ⟨hhstr, hvstr, -⟩ := hholds
  rw [State.scaled] at hhstr hvstr
  rw [← hhstr] at hhword
  rw [← hvstr] at hvword
  obtain ⟨hblend, hratio⟩ := axisRatio_of_axisWord hhword
  obtain ⟨vblend, vratio⟩ := axisRatio_of_axisWord hvword
  rw [hSize, charClocks_natCast] at hratio
  refine ⟨t, hexec, hblend, vblend, hratio, vratio, fun hpanel => ?_⟩
  rw [scaled_fallback (or_assoc.mp (.inl hpanel))] at hholds'
  obtain ⟨hoff, voff, -⟩ := hholds'
  rw [hoff, voff]
  exact ⟨(disabledStretch_bits _).1, (disabledStretch_bits _).1⟩

end Sys2Proof.Proofs.Stretch
end
section
/-! The timing words unpacked (44_timing_packer.md R176) and programmed (R185 to R188): TIMPROG writes the
result registers as TIMPACK does, then the control word of the secondary, then the four timing
registers. -/

namespace Sys2Proof.Proofs.TimingProgram

open Sys2Proof Sys2Proof.Machine Sys2Proof.Safety Sys2Proof.Laws Sys2Proof.Proofs.Scaler
  Sys2Proof.Proofs.Timing Sys2Proof.Proofs.Dpms Sys2Proof.Proofs.Atomic

/-! ### Unpacking -/

/-- The fields of a total/display word whose two values fit. -/
theorem bitsAt_totalDisp {w : Word} {n m : Nat} {total disp : Nat} (hn : n ≤ 16)
    (h : WordIs w ((total : Int) + disp * 2 ^ 16)) (ht : total < 2 ^ n) (hd : disp < 2 ^ m) :
    bitsAt w n 0 = total ∧ bitsAt w m 16 = disp := by
  have hw : w.toNat = total + disp * 2 ^ 16 := by unfold WordIs at h; omega
  have hpow : (2 : Nat) ^ n ≤ 2 ^ 16 := Nat.pow_le_pow_right (by decide) hn
  refine ⟨bitsAt_of_toNat (low := 0) (high := disp * 2 ^ (16 - n)) ?_ (by decide) ht,
    bitsAt_of_toNat (high := 0) ?_ (lt_of_lt_of_le ht hpow) hd⟩
  · rw [hw, mul_assoc, ← pow_add, Nat.sub_add_cancel hn, pow_zero, mul_one, zero_add]
  · rw [hw, zero_mul, add_zero]

/-- The fields of a sync word whose start and width fit. -/
theorem bitsAt_sync {w : Word} {n m : Nat} {start width : Nat} {pol : Bool} (hn : n ≤ 16) (hm : m ≤ 6)
    (h : WordIs w (start + (width * 2 ^ 16 + if pol then 2 ^ 23 else 0)))
    (hs : start < 2 ^ n) (hw : width < 2 ^ m) :
    bitsAt w n 0 = start ∧ bitsAt w m 16 = width ∧ testBit w 23 = pol := by
  have hpown : (2 : Nat) ^ n ≤ 2 ^ 16 := Nat.pow_le_pow_right (by decide) hn
  have hpowm : (2 : Nat) ^ m ≤ 2 ^ 6 := Nat.pow_le_pow_right (by decide) hm
  have hpol : WordIs w ((start : Int) + (width + pol.toNat * 2 ^ 7 : Nat) * 2 ^ 16) := by
    unfold WordIs at *
    rw [h]
    cases pol
    · simp
    · simp; ring
  have htoNat : w.toNat = start + (width + pol.toNat * 2 ^ 7) * 2 ^ 16 := by
    unfold WordIs at hpol; omega
  refine ⟨bitsAt_of_toNat (low := 0) (high := (width + pol.toNat * 2 ^ 7) * 2 ^ (16 - n)) ?_
      (by decide) hs,
    bitsAt_of_toNat (high := pol.toNat * 2 ^ (7 - m)) ?_ (lt_of_lt_of_le hs hpown) hw, ?_⟩
  · rw [htoNat, mul_assoc, ← pow_add, Nat.sub_add_cancel hn, pow_zero, mul_one, zero_add]
  · rw [htoNat, mul_assoc pol.toNat, ← pow_add, Nat.sub_add_cancel (by omega)]
  · rw [testBit_eq, bitsAt, htoNat]
    have hwidth : width < 2 ^ 6 := lt_of_lt_of_le hw hpowm
    have hstart : start < 2 ^ 16 := lt_of_lt_of_le hs hpown
    cases pol
    · rw [beq_eq_false_iff_ne, Bool.toNat_false]; omega
    · rw [beq_iff_eq, Bool.toNat_true]; omega

/-- Settles O32: each value of a well-formed mode fits its field. -/
theorem timpackRoundTrip : Obligations.TimpackRoundTrip := by
  intro c s hht1 hht2 hhd1 hhd2 hhs1 hhs2 hhse hhw hvt1 hvt2 hvd1 hvd2 hvs1 hvs2 hvse hvw
  obtain ⟨t, hexec, hhtd, hhsw, hvtd, hvsw, -⟩ := timpackStandardWords c s
  have htotal : stdHtd s = ((s.regNat .mHtotal / 8 - 1 : Nat) : Int) +
      (s.regNat .mHdisp / 8 - 1 : Nat) * 2 ^ 16 := by
    unfold stdHtd hdispField; omega
  have hvtotal : stdVtd s = ((s.regNat .mVtotal - 1 : Nat) : Int) +
      (s.regNat .mVdisp - 1 : Nat) * 2 ^ 16 := by
    unfold stdVtd vdispField; omega
  have hsync : stdHsw s = ((s.regNat .mHss - 8 : Nat) : Int) +
      ((max 1 ((s.regNat .mHse - s.regNat .mHss) / 8) : Nat) * 2 ^ 16 +
        if testBit (s.reg .mFlags) 3 then 2 ^ 23 else 0) := by
    have hwidth : Int.tdiv ((s.regNat .mHse : Int) - s.regNat .mHss) 8 =
        ((s.regNat .mHse - s.regNat .mHss) / 8 : Nat) := by
      rw [Int.tdiv_eq_ediv_of_nonneg (by omega)]; omega
    unfold stdHsw hsyncRest polarity
    rw [hwidth]; omega
  have hvsync : stdVsw s = ((s.regNat .mVss - 1 : Nat) : Int) +
      ((max 1 (s.regNat .mVse - s.regNat .mVss) : Nat) * 2 ^ 16 +
        if testBit (s.reg .mFlags) 4 then 2 ^ 23 else 0) := by
    unfold stdVsw vsyncRest polarity; omega
  rw [htotal] at hhtd
  rw [hvtotal] at hvtd
  rw [hsync] at hhsw
  rw [hvsync] at hvsw
  obtain ⟨h1, h2⟩ := bitsAt_totalDisp (n := 10) (m := 9) (by decide) hhtd (by omega) (by omega)
  obtain ⟨h3, h4, h5⟩ := bitsAt_sync (n := 13) (m := 6) (by decide) (by decide) hhsw (by omega) (by omega)
  obtain ⟨h6, h7⟩ := bitsAt_totalDisp (n := 16) (m := 16) (by decide) hvtd (by omega) (by omega)
  obtain ⟨h8, h9, h10⟩ := bitsAt_sync (n := 12) (m := 5) (by decide) (by decide) hvsw (by omega) (by omega)
  exact ⟨t, hexec, h1, h2, h3, h4, h5, h6, h7, h8, h9, h10⟩

/-! ### The timing registers -/

theorem drAddr_timing (c : Ctrl) :
    drAddr msc1 c .hTotalDisp = drBlock c + 1 ∧ drAddr msc1 c .hSyncStrtWid = drBlock c + 2 ∧
      drAddr msc1 c .vTotalDisp = drBlock c + 3 ∧ drAddr msc1 c .vSyncStrtWid = drBlock c + 4 := by
  cases c <;> decide

/-- The four timing registers of a controller. -/
def timingWords (c : Ctrl) : List (Space × Nat) :=
  [(.dr, drBlock c + 1), (.dr, drBlock c + 2), (.dr, drBlock c + 3), (.dr, drBlock c + 4)]

/-- The four writes of the timing result registers, in order (44_timing_packer.md R186). -/
def timingEvents (c : Ctrl) (t : State) : List Event :=
  [.wr .dr (drBlock c + 1) (t.reg .tpHtd), .wr .dr (drBlock c + 2) (t.reg .tpHsw),
   .wr .dr (drBlock c + 3) (t.reg .tpVtd), .wr .dr (drBlock c + 4) (t.reg .tpVsw)]

/-- The timing registers hold what the result registers hold. -/
def TimingHeld (c : Ctrl) (t : State) : Prop :=
  t.held .dr (drBlock c + 1) = some (t.reg .tpHtd) ∧ t.held .dr (drBlock c + 2) = some (t.reg .tpHsw) ∧
  t.held .dr (drBlock c + 3) = some (t.reg .tpVtd) ∧ t.held .dr (drBlock c + 4) = some (t.reg .tpVsw)

/-- The four writes at their addresses. -/
theorem programTiming_eq (c : Ctrl) (s : State) :
    programTiming msc1 c s =
      busWrite .dr (drBlock c + 4) (s.reg .tpVsw) (busWrite .dr (drBlock c + 3) (s.reg .tpVtd)
        (busWrite .dr (drBlock c + 2) (s.reg .tpHsw) (busWrite .dr (drBlock c + 1) (s.reg .tpHtd) s))) := by
  obtain ⟨h1, h2, h3, h4⟩ := drAddr_timing c
  simp only [programTiming, memWriteReg, memWrite, busWrite_reg, h1, h2, h3, h4]

theorem programTiming_does (c : Ctrl) (s : State) :
    Ran [] (timingWords c) 0 (timingEvents c s) s (programTiming msc1 c s) ∧
      TimingHeld c (programTiming msc1 c s) := by
  rw [programTiming_eq]
  have hhtd := ran_busWrite .dr (drBlock c + 1) (s.reg .tpHtd) s
  have hhsw := ran_then_busWrite hhtd (drBlock c + 2) (s.reg .tpHsw)
  have hvtd := ran_then_busWrite hhsw (drBlock c + 3) (s.reg .tpVtd)
  refine ⟨ran_then_busWrite hvtd (drBlock c + 4) (s.reg .tpVsw), ?_⟩
  simp [TimingHeld, busWrite_held]

/-! ### The result registers of TIMPROG -/

/-- The machine of TIMPROG with its result registers written. -/
def timed (c : Ctrl) (s : State) : State := timpackBody msc1 c .std (setStep 2 (prologue s))

theorem ran_timed (c : Ctrl) (s : State) : Ran (.phase :: tpRegs) [] 0 [] (prologue s) (timed c s) :=
  ran_trans (ran_setStep 2 (prologue s)) (ran_writeTiming msc1 c _ _)

/-- The step number and the prologue leave the operands of the packer as they are. -/
theorem timed_does (c : Ctrl) (s : State) :
    HoldsTiming (packStd msc1 s.mode) (timed c s) ∧ (timed c s).reg .tpCtl = ctlWord s c := by
  have hregs : ∀ r, r ≠ .status → r ≠ .phase → (setStep 2 (prologue s)).reg r = s.reg r := by
    intro r hstatus hphase
    rw [ran_reg (ran_setStep 2 _) (by simpa using hphase), prologue_reg, if_neg hstatus]
  have hmode : (setStep 2 (prologue s)).mode = s.mode := by
    simp (disch := decide) only [State.mode, State.regNat, hregs]
  refine ⟨?_, ?_⟩
  · rw [← hmode]
    exact writeTiming_holdsTiming _ _ _ _
  · rw [timed, timpackBody, writeTiming_tpCtl, hregs _ (by decide) (by decide), packCtl_msc1]

theorem timed_held (c : Ctrl) (s : State) (sp : Space) (a : Nat) :
    (timed c s).held sp a = s.held sp a := by
  rw [ran_held (ran_timed c s) (by simp), prologue_held]

theorem drew_timed (c : Ctrl) (s : State) : Drew 0 0 s (timed c s) := by
  simpa [Drew] using ran_drew (ran_timed c s)

/-- The result registers of TIMPROG hold the standard words as integers (44_timing_packer.md R172 to
R175). -/
def HoldsStandard (s t : State) : Prop :=
  WordIs (t.reg .tpHtd) (stdHtd s) ∧ WordIs (t.reg .tpHsw) (stdHsw s) ∧
  WordIs (t.reg .tpVtd) (stdVtd s) ∧ WordIs (t.reg .tpVsw) (stdVsw s)

theorem holdsStandard_of_holdsTiming {s t : State} (h : HoldsTiming (packStd msc1 s.mode) t) :
    HoldsStandard s t := by
  obtain ⟨hhtd, hhsw, hvtd, hvsw⟩ := h
  exact ⟨hhtd ▸ packStd_htd s, hhsw ▸ packStd_hsw s, hvtd ▸ packStd_vtd s, hvsw ▸ packStd_vsw s⟩

theorem timingEvents_congr {c : Ctrl} {t u : State} (h : ∀ r ∈ tpRegs, u.reg r = t.reg r) :
    timingEvents c u = timingEvents c t := by
  simp (disch := decide) only [timingEvents, h]

theorem timingHeld_congr {c : Ctrl} {t u : State} (h : ∀ r ∈ tpRegs, u.reg r = t.reg r)
    (hheld : ∀ a, u.held .dr a = t.held .dr a) (ht : TimingHeld c t) : TimingHeld c u := by
  unfold TimingHeld at *
  simpa (disch := decide) only [h, hheld] using ht

/-- TIMPROG from the control word on: any run `u` that leaves the result registers alone, then the four
writes. -/
theorem timprog_does {c : Ctrl} {s u : State} {ws : List (Space × Nat)} {n : Nat} {es : List Event}
    (hctl : programCtl msc1 c (timed c s) = u) (hrun : Ran [] ws n es (timed c s) u) :
    let t := frame (timprogBody msc1 c) s
    HoldsStandard s t ∧ t.reg .tpCtl = ctlWord s c ∧ TimingHeld c t ∧ Ended 0x00000002#32 t ∧
      (∀ a, (.dr, a) ∉ timingWords c → t.held .dr a = u.held .dr a) ∧
      Ran (tpRegs ++ [.status, .phase]) (ws ++ timingWords c) n (es ++ timingEvents c t) s t := by
  intro t
  obtain ⟨hwrites, hheld⟩ := programTiming_does c u
  obtain ⟨htiming, htpCtl⟩ := timed_does c s
  have hbody : timprogBody msc1 c (prologue s) = programTiming msc1 c u := by
    rw [← hctl]
    rfl
  have hframe : ∀ r ∈ tpRegs, t.reg r = (programTiming msc1 c u).reg r := by
    rw [← hbody]
    exact frame_tpRegs (timprogBody msc1 c) s
  have hregs : ∀ r ∈ tpRegs, t.reg r = (timed c s).reg r := fun r hr => by
    rw [hframe r hr, ran_reg hwrites List.not_mem_nil, ran_reg hrun List.not_mem_nil]
  have hevents : timingEvents c u = timingEvents c t :=
    timingEvents_congr fun r hr => (ran_reg hrun List.not_mem_nil).trans (hregs r hr).symm
  have hall := ran_trans (ran_trans (ran_timed c s) hrun) hwrites
  rw [← hbody, hevents] at hall
  refine ⟨holdsStandard_of_holdsTiming (holdsTiming_congr hregs htiming),
    (hregs _ (by decide)).trans htpCtl, timingHeld_congr hframe (fun a => ?_) hheld,
    frame_ended (ran_reg hall (by decide)), fun a ha => ?_,
    ran_mono (ran_frame hall) (by decide) (by simp) (by omega) rfl⟩
  · rw [frame_held, hbody]
  · rw [frame_held, hbody, ran_held hwrites ha]

/-- Settles O40: the primary has no control word to write. -/
theorem timprogPrimaryWritesTiming : Obligations.TimprogPrimaryWritesTiming := by
  intro s
  obtain ⟨⟨hhtd, hhsw, hvtd, hvsw⟩, hctl, ⟨hh1, hh2, hh3, hh4⟩, hended, -, hrun⟩ :=
    timprog_does (c := .primary) (u := timed .primary s) rfl (ran_refl _)
  obtain ⟨hregs, hheld, hcollab, hhost, hdrew, htrace⟩ := hrun
  exact ⟨_, rfl, hhtd, hhsw, hvtd, hvsw, hctl, htrace, hh1, hh2, hh3, hh4, hended, hregs, hheld, hcollab,
    hhost, hdrew⟩

/-- The control word of the secondary does not touch AUX_CRT_ON (44_timing_packer.md R187). -/
theorem ctlWord_auxCrtOn (s : State) : ctlWord s .secondary &&& 0x00000100#32 = 0 := by
  unfold ctlWord
  split_ifs <;> decide

/-- The control word of the secondary is folded into CTL, with AUX_CRT_ON as read. -/
theorem programCtl_secondary (s : State) :
    let old := readAt s .dr 0x040 (ctlOwned .secondary) 0
    Ran [] [(.dr, 0x040)] 1 [rmwEvent .dr 0x040 (ctlWord s .secondary) 0x00000100#32 old]
        (timed .secondary s) (programCtl msc1 .secondary (timed .secondary s)) ∧
      (programCtl msc1 .secondary (timed .secondary s)).held .dr 0x040 =
        some ((old &&& 0x00000100#32) ||| ctlWord s .secondary) := by
  intro old
  obtain ⟨-, htpCtl⟩ := timed_does .secondary s
  have hold : (timed .secondary s).readValue .dr 0x040 (ctlOwned .secondary) = old :=
    readValue_of_drew (drew_timed .secondary s) _ (timed_held .secondary s _ _)
  have hprogram : programCtl msc1 .secondary (timed .secondary s) =
      busRmw .dr 0x040 (ctlOwned .secondary) (ctlWord s .secondary) 0x00000100#32
        (timed .secondary s) := by
    rw [programCtl, memRmwReg, memRmw, htpCtl, drOwned_ctl, bitWord_auxCrtOn, drAddr_ctl]
    rfl
  rw [hprogram]
  exact busRmw_does hold (ctlWord_auxCrtOn s)

/-- Settles O41: the control word, then the writes that both controllers have. -/
theorem timprogSecondaryWritesTiming : Obligations.TimprogSecondaryWritesTiming := by
  intro s
  obtain ⟨hctlRun, hctlHeld⟩ := programCtl_secondary s
  obtain ⟨⟨hhtd, hhsw, hvtd, hvsw⟩, hctl, ⟨hh1, hh2, hh3, hh4⟩, hended, hkept, hrun⟩ :=
    timprog_does (c := .secondary) rfl hctlRun
  obtain ⟨hregs, hheld, hcollab, hhost, hdrew, htrace⟩ := hrun
  rw [← hctl] at htrace hctlHeld
  exact ⟨_, _, rfl, rfl, hhtd, hhsw, hvtd, hvsw, hctl, htrace, (hkept 0x040 (by decide)).trans hctlHeld,
    hh1, hh2, hh3, hh4, hended, hregs, hheld, hcollab, hhost, hdrew⟩

end Sys2Proof.Proofs.TimingProgram
end

section
/-! What PLLCOMMIT leaves in the PLL bank (45_atomic_update.md R204, R205), field by field. -/

namespace Sys2Proof.Proofs.Bank

open Sys2Proof Sys2Proof.Machine Sys2Proof.Safety Sys2Proof.Laws Sys2Proof.Proofs.Atomic
  Sys2Proof.Proofs.Blanking

/-- A field as a part of the word. -/
theorem bitsAt_eq_extract (w : Word) (n k : Nat) : bitsAt w n k = (w.extractLsb' k n).toNat := by
  rw [BitVec.extractLsb'_toNat, Nat.shiftRight_eq_div_pow, bitsAt]

/-- A field that a read-modify-write does not keep holds what was written. -/
theorem bitsAt_keep_or {keep : Word} {n k : Nat} (h : keep.extractLsb' k n = 0#n) (old v : Word) :
    bitsAt ((old &&& keep) ||| v) n k = bitsAt v n k := by
  rw [bitsAt_eq_extract, bitsAt_eq_extract, BitVec.extractLsb'_or, BitVec.extractLsb'_and, h,
    BitVec.and_zero, BitVec.zero_or]

/-- A field is the value of the word under the field's mask. -/
theorem bitsAt_and_mask {mask : Word} {n k : Nat} (h : mask.extractLsb' k n = BitVec.allOnes n)
    (w : Word) : bitsAt (w &&& mask) n k = bitsAt w n k := by
  rw [bitsAt_eq_extract, bitsAt_eq_extract, BitVec.extractLsb'_and, h, BitVec.and_allOnes]

/-- The reference divider that the toggle leaves in the bank (45_atomic_update.md R205). -/
theorem bitsAt_refDiv_after_toggle (o1 v d d' : Word) :
    bitsAt (presented 0xFFFF7C00#32
      ((presented 0xFFFF7C00#32 ((o1 &&& 0xFFFFFC00#32) ||| v) d &&& 0xFFFF7FFF#32) ||| 0x00008000#32) d'
        &&& 0xFFFF7FFF#32) 10 0 = bitsAt v 10 0 := by
  rw [← bitsAt_and_mask (mask := 0x000003FF#32) (by decide), refDiv_after_toggle,
    bitsAt_and_mask (by decide)]

/-- The clear of the toggle leaves ATOMIC_UPDATE_W at 0. -/
theorem testBit_atomicUpdateW_cleared (w : Word) : testBit (w &&& 0xFFFF7FFF#32) 15 = false := by
  simp [testBit]

theorem bitsAt_refDivField (t : State) : bitsAt (refDivField t) 10 0 = t.regNat .solRef % 1024 := by
  rw [bitsAt, refDivField, BitVec.toNat_ofNat]
  omega

theorem bitsAt_fbPostFields (t : State) :
    bitsAt (fbPostFields t) 11 0 = t.regNat .solFb % 2048 ∧
      bitsAt (fbPostFields t) 4 11 = t.regNat .solFrac % 16 ∧
      bitsAt (fbPostFields t) 3 16 = t.regNat .solPcode % 8 := by
  simp only [bitsAt, fbPostFields, BitVec.toNat_ofNat]
  omega

theorem bitsAt_gainField (t : State) : bitsAt (gainField t) 3 11 = t.regNat .solGain % 8 := by
  rw [bitsAt, gainField, BitVec.toNat_ofNat]
  omega

/-- Settles O34: the three registers as the commit leaves them, each field the one written last. -/
theorem pllcommitLeavesSolutionInBank : Obligations.PllcommitLeavesSolutionInBank := by
  intro c s
  obtain ⟨t, first, second, es, hexec, hshape, -, -, hrun⟩ := exec_pllcommit c s
  obtain ⟨-, -, o1, o2, o3, o4, o5, -, -, -, -, -, ho4, ho5, -, href, hfb, hgain⟩ := hshape
  have hsol : ∀ r ∈ solRegs, t.regNat r = s.regNat r := by
    have hdisj : ∀ r ∈ solRegs, r ∉ [Reg.waitcnt, .status, .phase] := by decide
    exact fun r hr => congrArg BitVec.toNat (ran_reg hrun (hdisj r hr))
  obtain ⟨hfbDiv, hfrac, hcode⟩ := bitsAt_fbPostFields t
  refine ⟨t, _, _, _, hexec, href, hfb, hgain, ?_, testBit_atomicUpdateW_cleared _, ?_, ?_, ?_, ?_⟩
  · rw [ho5, ho4, bitsAt_refDiv_after_toggle, bitsAt_refDivField, hsol _ (by decide)]
  · rw [bitsAt_keep_or (by decide), hfbDiv, hsol _ (by decide)]
  · rw [bitsAt_keep_or (by decide), hfrac, hsol _ (by decide)]
  · rw [bitsAt_keep_or (by decide), hcode, hsol _ (by decide)]
  · rw [bitsAt_keep_or (by decide), bitsAt_gainField, hsol _ (by decide)]

end Sys2Proof.Proofs.Bank
end
section
/-! Step 1 of a mode set (47_modeset.md R237 to R242): the unsupported format, and the pin that answers with
a buffer, whose address and pitch are written before the previous buffer is handed back. -/

namespace Sys2Proof.Proofs.BaseAddress

open Sys2Proof Sys2Proof.Machine Sys2Proof.Safety Sys2Proof.Laws Sys2Proof.Proofs.Scaler
  Sys2Proof.Proofs.Solver Sys2Proof.Proofs.Setbase

/-! ### An unsupported format -/

/-- The codes of `FORMATS` (47_modeset.md R238). -/
theorem bytesOfFormat_of_unsupported {code : Nat} (h : code ∉ [8, 15, 16, 24, 32]) :
    bytesOfFormat msc1 code = none := by
  have hfind : msc1.formats.find? (fun p => p.1 == code) = none := by
    rw [List.find?_eq_none]
    have hcodes : ∀ p ∈ msc1.formats, p.1 ∈ [8, 15, 16, 24, 32] := by decide
    intro p hp hcode
    rw [beq_iff_eq] at hcode
    exact h (hcode ▸ hcodes p hp)
  rw [bytesOfFormat, hfind]
  rfl

/-- Each code with its byte count (47_modeset.md R240). -/
theorem bytesOfFormat_of_mem {code bytes : Nat} (h : (code, bytes) ∈ msc1.formats) :
    bytesOfFormat msc1 code = some bytes := by
  have hall : ∀ p ∈ msc1.formats, bytesOfFormat msc1 p.1 = some p.2 := by decide
  exact hall (code, bytes) h

theorem setStep_regNat_fbFormat (s : State) : (setStep 1 s).regNat .fbFormat = s.regNat .fbFormat :=
  congrArg BitVec.toNat (ran_reg (ran_setStep 1 s) (by decide))

theorem prologue_regNat_fbFormat (s : State) : (prologue s).regNat .fbFormat = s.regNat .fbFormat := by
  rw [State.regNat, prologue_reg, if_neg (by decide), State.regNat]

/-- Step 1 with an unsupported format raises E_FORMAT and does nothing else (47_modeset.md R238). -/
theorem setbaseRun_of_unsupported (c : Ctrl) {s : State}
    (h : s.regNat .fbFormat ∉ [8, 15, 16, 24, 32]) :
    setbaseRun msc1 c s = (.badFormat, raise statusEFormat (setStep 1 s)) := by
  simp only [setbaseRun, setStep_regNat_fbFormat, bytesOfFormat_of_unsupported h]

/-- A raised flag beside what STATUS held. -/
theorem raise_status (flag : Nat) (s : State) :
    (raise flag s).reg .status = s.reg .status ||| bitWord flag := by
  rw [raise_does, reg_setReg_same]

/-- A command that numbers its step and raises one flag. -/
theorem frame_raise {body : State → State} {s : State} {step flag : Nat}
    (hbody : body (prologue s) = raise flag (setStep step (prologue s))) :
    Ended (statusAtEnd (1#32 ||| bitWord flag)) (frame body s) ∧
      PureOn [.status, .phase] s (frame body s) := by
  have hrun := ran_trans (ran_setStep step (prologue s)) (ran_raise flag (setStep step (prologue s)))
  rw [← hbody] at hrun
  refine ⟨frame_ended_of_status ?_, pureOn_of_ran (ran_mono (ran_frame hrun) (by simp) (by simp) rfl rfl)
    ?_ ?_⟩
  · rw [hbody, raise_status, ran_reg (ran_setStep step _) (by decide), prologue_reg, if_pos rfl]
  · rw [frame_dr, hbody]
    rfl
  · rw [frame_pr, hbody]
    rfl

/-- Settles O37: the format check comes before the pin. -/
theorem setbaseUnsupportedFormat : Obligations.SetbaseUnsupportedFormat := by
  intro c s hformat
  rw [← prologue_regNat_fbFormat] at hformat
  have hbody : setbaseBody msc1 c (prologue s) = raise statusEFormat (setStep 1 (prologue s)) := by
    rw [setbaseBody, setbaseRun_of_unsupported c hformat]
  exact ⟨frame (setbaseBody msc1 c) s, rfl, frame_raise hbody⟩

/-! ### The hand-over of the previous buffer -/

section releaseOld
variable (old new : Word) (s : State)

@[simp] theorem releaseOld_reg (r : Reg) : (releaseOld old new s).reg r = s.reg r := by
  unfold releaseOld; split <;> rfl
@[simp] theorem releaseOld_held (sp : Space) (a : Nat) :
    (releaseOld old new s).held sp a = s.held sp a := by
  unfold releaseOld; split
  · cases sp <;> rfl
  · rfl
@[simp] theorem releaseOld_palettePri : (releaseOld old new s).palettePri = s.palettePri := by
  unfold releaseOld; split <;> rfl
@[simp] theorem releaseOld_paletteSec : (releaseOld old new s).paletteSec = s.paletteSec := by
  unfold releaseOld; split <;> rfl
@[simp] theorem releaseOld_host : (releaseOld old new s).host = s.host := by
  unfold releaseOld; split <;> rfl
@[simp] theorem releaseOld_hostSeen : (releaseOld old new s).hostSeen = s.hostSeen := by
  unfold releaseOld; split <;> rfl
@[simp] theorem releaseOld_readDraws : (releaseOld old new s).readDraws = s.readDraws := by
  unfold releaseOld; split <;> rfl
@[simp] theorem releaseOld_pinDraws : (releaseOld old new s).pinDraws = s.pinDraws := by
  unfold releaseOld; split <;> rfl
@[simp] theorem releaseOld_drawn : (releaseOld old new s).drawn = s.drawn := by
  unfold releaseOld; split <;> rfl

/-- The previous buffer is handed back when it is one and another (47_modeset.md R242). -/
theorem releaseOld_trace :
    (releaseOld old new s).trace = s.trace ++ if old ≠ 0 ∧ old ≠ new then [.unpin old] else [] := by
  unfold releaseOld; split
  · rfl
  · rw [List.append_nil]

theorem releaseOld_pinCount (g : Word) :
    (releaseOld old new s).pinCount g =
      s.pinCount g - if old ≠ 0 ∧ old ≠ new ∧ g = old then 1 else 0 := by
  unfold releaseOld
  by_cases h : old ≠ 0 ∧ old ≠ new
  · rw [if_pos h, unpinHandle_pinCount]
    exact congrArg _ (if_congr (by tauto) rfl rfl)
  · rw [if_neg h, if_neg (by tauto), Nat.sub_zero]

end releaseOld

/-! ### The pin -/

/-- The machine of SETBASE once its pin has answered with a buffer. -/
def basePinned (base tiling : Word) (s : State) : State :=
  { (setStep 1 s).advancePin.log (.pin (s.reg .fbHandle) (.ok base tiling)) with
    pins := pinsAdd (s.reg .fbHandle).toNat s.pins }

section basePinned
variable (base tiling : Word) (s : State)

theorem basePinned_reg {r : Reg} (h : r ≠ .phase) : (basePinned base tiling s).reg r = s.reg r :=
  ran_reg (ran_setStep 1 s) (by simpa using h)
@[simp] theorem basePinned_held (sp : Space) (a : Nat) :
    (basePinned base tiling s).held sp a = s.held sp a := by cases sp <;> rfl
@[simp] theorem basePinned_palettePri : (basePinned base tiling s).palettePri = s.palettePri := rfl
@[simp] theorem basePinned_paletteSec : (basePinned base tiling s).paletteSec = s.paletteSec := rfl
@[simp] theorem basePinned_host : (basePinned base tiling s).host = s.host := rfl
@[simp] theorem basePinned_hostSeen : (basePinned base tiling s).hostSeen = s.hostSeen := rfl
@[simp] theorem basePinned_readDraws : (basePinned base tiling s).readDraws = s.readDraws := rfl
@[simp] theorem basePinned_pinDraws : (basePinned base tiling s).pinDraws = s.pinDraws.tail := rfl
@[simp] theorem basePinned_drawn : (basePinned base tiling s).drawn = s.drawn + 1 := rfl
@[simp] theorem basePinned_trace :
    (basePinned base tiling s).trace = s.trace ++ [.pin (s.reg .fbHandle) (.ok base tiling)] := rfl

theorem basePinned_pinCount (g : Word) :
    (basePinned base tiling s).pinCount g =
      s.pinCount g + if g = s.reg .fbHandle then 1 else 0 := by
  have hget := pinsAdd_get (s.reg .fbHandle).toNat g.toNat s.pins
  rw [if_congr BitVec.toNat_inj rfl rfl] at hget
  exact hget

end basePinned

/-- The scan-out address of the operands in a pinned buffer (47_modeset.md R240); a tiled buffer's offset is
open. -/
def baseAddress (s : State) (base tiling : Word) (bytes : Nat) : Word :=
  let off := if tiling = 0 then (s.regNat .fbY * s.regNat .fbPitch + s.regNat .fbX) * bytes
    else Config.freeTileOffset tiling (s.reg .fbX) (s.reg .fbY) (s.reg .fbPitch) bytes
  BitVec.ofNat 32 (base.toNat + off)

theorem basePinned_scanout (base tiling : Word) (bytes : Nat) (s : State) :
    (basePinned base tiling s).scanout msc1 base tiling bytes = baseAddress s base tiling bytes := by
  rw [State.scanout, basePinned_reg _ _ _ (by decide), basePinned_reg _ _ _ (by decide),
    basePinned_reg _ _ _ (by decide)]
  rfl

/-- Step 1 with a supported format and a pin that answers with a buffer (47_modeset.md R239 to R241). -/
theorem setbaseRun_of_pinned (c : Ctrl) {s : State} {bytes : Nat} {base tiling : Word}
    (hformat : (s.regNat .fbFormat, bytes) ∈ msc1.formats) (hpin : s.nextPin = .ok base tiling) :
    setbaseRun msc1 c s =
      (.done, programBase msc1 c (baseAddress s base tiling bytes) (basePinned base tiling s)) := by
  have hhandle : (setStep 1 s).reg .fbHandle = s.reg .fbHandle :=
    ran_reg (ran_setStep 1 s) (by decide)
  have hanswer : (setStep 1 s).nextPin = .ok base tiling := hpin
  have hpinned : pinHandle ((setStep 1 s).reg .fbHandle) (setStep 1 s) =
      (.ok base tiling, basePinned base tiling s) := by
    rw [pinHandle_does, hanswer, hhandle]
    rfl
  simp only [setbaseRun, setStep_regNat_fbFormat, bytesOfFormat_of_mem hformat, pinAndProgram, hpinned,
    basePinned_scanout]

/-! ### The two writes and the hand-over -/

theorem drAddr_base (c : Ctrl) :
    drAddr msc1 c .fbOffset = drBlock c + 5 ∧ drAddr msc1 c .fbPitchw = drBlock c + 6 := by
  cases c <;> decide

/-- FB_OFFSET and FB_PITCHW written (47_modeset.md R241). -/
def baseWritten (c : Ctrl) (addr : Word) (s : State) : State :=
  busWrite .dr (drBlock c + 6) (s.reg .fbPitch) (busWrite .dr (drBlock c + 5) addr s)

theorem programBase_eq (c : Ctrl) (addr : Word) (s : State) :
    programBase msc1 c addr s =
      (releaseOld (s.reg (.curfb c)) (s.reg .fbHandle) (baseWritten c addr s)).setReg (.curfb c)
        (s.reg .fbHandle) := by
  obtain ⟨hoffset, hpitch⟩ := drAddr_base c
  simp only [programBase, memWriteReg, memWrite, hoffset, hpitch, busWrite_reg, releaseOld_reg,
    baseWritten]

theorem ran_baseWritten (c : Ctrl) (addr : Word) (s : State) :
    Ran [] [(.dr, drBlock c + 5), (.dr, drBlock c + 6)] 0
      [.wr .dr (drBlock c + 5) addr, .wr .dr (drBlock c + 6) (s.reg .fbPitch)] s
      (baseWritten c addr s) :=
  ran_then_busWrite (ran_busWrite .dr (drBlock c + 5) addr s) _ _

theorem baseWritten_held (c : Ctrl) (addr : Word) (s : State) :
    (baseWritten c addr s).held .dr (drBlock c + 5) = some addr ∧
      (baseWritten c addr s).held .dr (drBlock c + 6) = some (s.reg .fbPitch) := by
  simp [baseWritten, busWrite_held]

/-- The pin counts do not depend on the register spaces. -/
theorem baseWritten_pinCount (c : Ctrl) (addr : Word) (s : State) (g : Word) :
    (baseWritten c addr s).pinCount g = s.pinCount g := by
  simp [State.pinCount, baseWritten]

theorem setReg_pinCount (s : State) (r : Reg) (v g : Word) : (s.setReg r v).pinCount g = s.pinCount g :=
  rfl

theorem frame_pinCount (body : State → State) (s : State) (g : Word) :
    (frame body s).pinCount g = (body (prologue s)).pinCount g := rfl

/-- The machine of SETBASE when its body is done. -/
def baseProgrammed (c : Ctrl) (bytes : Nat) (base tiling : Word) (s : State) : State :=
  programBase msc1 c (baseAddress s base tiling bytes) (basePinned base tiling s)

theorem baseProgrammed_eq (c : Ctrl) (bytes : Nat) (base tiling : Word) (s : State) :
    baseProgrammed c bytes base tiling s =
      (releaseOld (s.reg (.curfb c)) (s.reg .fbHandle)
        (baseWritten c (baseAddress s base tiling bytes) (basePinned base tiling s))).setReg (.curfb c)
        (s.reg .fbHandle) := by
  rw [baseProgrammed, programBase_eq, basePinned_reg _ _ _ (by simp), basePinned_reg _ _ _ (by decide)]

/-- The prologue leaves the operands and the pins of SETBASE as they are. -/
theorem baseAddress_prologue (s : State) (base tiling : Word) (bytes : Nat) :
    baseAddress (prologue s) base tiling bytes = baseAddress s base tiling bytes := by
  simp [baseAddress, State.regNat, prologue_reg]

/-- Settles O39: the pin, the two writes as a run, the hand-over and CURFB, one after the other. -/
theorem setbaseProgramsBase : Obligations.SetbaseProgramsBase := by
  intro c s bytes base tiling hformat hpin h old off addr
  have hcode : ((prologue s).regNat .fbFormat, bytes) ∈ msc1.formats := by
    rw [prologue_regNat_fbFormat]
    exact hformat
  have hregs : ∀ r, r ≠ Reg.status → (prologue s).reg r = s.reg r :=
    fun r hr => (prologue_reg s r).trans (if_neg hr)
  let pinned := basePinned base tiling (prologue s)
  have hbody : setbaseBody msc1 c (prologue s) =
      (releaseOld old h (baseWritten c addr pinned)).setReg (.curfb c) h := by
    rw [setbaseBody, setbaseRun_of_pinned c hcode hpin, ← baseProgrammed, baseProgrammed_eq,
      baseAddress_prologue, hregs _ (by simp), hregs _ (by decide)]
    rfl
  obtain ⟨hwregs, hwheld, ⟨-, hwpri, hwsec⟩, ⟨hwhost, hwseen⟩, ⟨hwreads, hwpins, hwdrawn⟩, hwtrace⟩ :=
    ran_baseWritten c addr pinned
  obtain ⟨hoffset, hpitch⟩ := baseWritten_held c addr pinned
  have hpitchReg : pinned.reg .fbPitch = s.reg .fbPitch := by
    rw [basePinned_reg _ _ _ (by decide), hregs _ (by decide)]
  rw [hpitchReg] at hwtrace hpitch
  have hwritten : ∀ r, r ≠ .status → r ≠ .phase → (baseWritten c addr pinned).reg r = s.reg r := by
    intro r hstatus hphase
    rw [hwregs r List.not_mem_nil, basePinned_reg _ _ _ hphase, hregs r hstatus]
  refine ⟨frame (setbaseBody msc1 c) s, rfl, ?trace, ?offset, ?pitch, ?curfb, fun g => ?pins, ?pri, ?sec,
    ?ended, fun r hr => ?regs, fun sp a ha => ?held, ⟨?host, ?seen⟩, ?reads, ?pinDraws, ?drawn⟩
  case trace =>
    rw [frame_trace, hbody, setReg_trace, releaseOld_trace, hwtrace, basePinned_trace, hregs _ (by decide),
      prologue_trace, List.append_assoc s.trace]
    rfl
  case offset => rw [frame_held, hbody, setReg_held, releaseOld_held, hoffset]
  case pitch => rw [frame_held, hbody, setReg_held, releaseOld_held, hpitch]
  case curfb => rw [frame_reg, if_neg (by simp), if_neg (by simp), hbody, reg_setReg_same]
  case pins =>
    rw [frame_pinCount, hbody, setReg_pinCount, releaseOld_pinCount, baseWritten_pinCount,
      basePinned_pinCount, hregs _ (by decide)]
    rfl
  case pri => rw [frame_palettePri, hbody, setReg_palettePri, releaseOld_palettePri, hwpri]; rfl
  case sec => rw [frame_paletteSec, hbody, setReg_paletteSec, releaseOld_paletteSec, hwsec]; rfl
  case ended =>
    refine frame_ended ?_
    rw [hbody, reg_setReg_ne _ _ (by simp), releaseOld_reg, hwregs _ List.not_mem_nil,
      basePinned_reg _ _ _ (by decide)]
  case regs =>
    simp only [List.mem_cons, List.not_mem_nil, or_false, not_or] at hr
    obtain ⟨hcurfb, hstatus, hphase⟩ := hr
    rw [frame_reg, if_neg hstatus, if_neg hphase, hbody, reg_setReg_ne _ _ (Ne.symm hcurfb),
      releaseOld_reg, hwritten r hstatus hphase]
  case held =>
    rw [frame_held, hbody, setReg_held, releaseOld_held, hwheld sp a ha, basePinned_held, prologue_held]
  case host => rw [frame_host, hbody, setReg_host, releaseOld_host, hwhost]; rfl
  case seen => rw [frame_hostSeen, hbody, setReg_hostSeen, releaseOld_hostSeen, hwseen]; rfl
  case reads => rw [frame_readDraws, hbody, setReg_readDraws, releaseOld_readDraws, hwreads]; rfl
  case pinDraws => simp [hbody, hwpins, pinned]
  case drawn => simp [hbody, hwdrawn, pinned]

end Sys2Proof.Proofs.BaseAddress
end

section
/-! Steps 4 and 5 of a mode set where they touch no register of the display hardware: BWNOTIFY (47_modeset.md
R252), and SCALPROG on the secondary, which is not scaling-capable (R255, R256). -/

namespace Sys2Proof.Proofs.Notify

open Sys2Proof Sys2Proof.Machine Sys2Proof.Safety Sys2Proof.Laws Sys2Proof.Proofs.Solver
  Sys2Proof.Proofs.Gain Sys2Proof.Proofs.Scaler Sys2Proof.Proofs.BaseAddress

theorem ran_bwnotifyBody (c : Ctrl) (s : State) :
    Ran [.phase] [] 0 [.bw c (s.reg .solClk)] s (bwnotifyBody c s) := by
  have hclk : (setStep 4 s).reg .solClk = s.reg .solClk := ran_reg (ran_setStep 4 s) (by decide)
  have hbody : bwnotifyBody c s = bwNotifyCall c (s.reg .solClk) (setStep 4 s) :=
    congrArg (bwNotifyCall c · (setStep 4 s)) hclk
  rw [hbody]
  exact ran_trans (ran_setStep 4 s) (ran_bwNotifyCall c _ _)

/-- Settles O45: BWNOTIFY is a run of its one call. -/
theorem bwnotifyHandsOverClock : Obligations.BwnotifyHandsOverClock := by
  intro c s
  have hrun := ran_bwnotifyBody c (prologue s)
  rw [prologue_reg, if_neg (by decide)] at hrun
  have hregSubset : [Reg.phase] ++ [.status, .phase] ⊆ [.status, .phase] := by decide
  obtain ⟨hregs, hheld, hcollab, hhost, hdrew, htrace⟩ :=
    ran_mono (ran_frame hrun) hregSubset (List.Subset.refl _) rfl rfl
  exact ⟨frame (bwnotifyBody c) s, rfl, htrace, frame_ended (ran_reg hrun (by decide)), hregs, hheld,
    hcollab, hhost, hdrew⟩

/-! ### SCALPROG 1 -/

/-- Off is the policy of code 0 (10_state.md R28). -/
theorem policyOf_eq_off_iff (s : State) : policyOf (s.reg .sPolicy) = .off ↔ policyNum s = 0 := by
  rw [policyOf_eq]
  generalize policyNum s = n
  match n with
  | 0 => decide
  | 1 => decide
  | 2 => decide
  | n + 3 => simp

/-- The step number and the prologue leave the policy as it is. -/
theorem started_sPolicy (s : State) : (setStep 5 (prologue s)).reg .sPolicy = s.reg .sPolicy := by
  rw [ran_reg (ran_setStep 5 _) (by decide), prologue_reg, if_neg (by decide)]

/-- Off is recorded as code 0 (47_modeset.md R255). -/
theorem scalprogBody_secondary_off {s : State} (h : policyNum s = 0) :
    scalprogBody msc1 .secondary (prologue s) =
      (setStep 5 (prologue s)).setReg (.curpol .secondary) 0 := by
  have hoff : policyOf ((setStep 5 (prologue s)).reg .sPolicy) = .off := by
    rw [started_sPolicy, policyOf_eq_off_iff, h]
  have hbits : policyBits ((setStep 5 (prologue s)).reg .sPolicy) = 0 := by
    apply BitVec.eq_of_toNat_eq
    rw [policyBits_toNat, started_sPolicy]
    exact h
  have hincapable : msc1.scalingCapable .secondary ≠ true := by decide
  simp only [scalprogBody, if_neg hincapable, if_pos hoff, recordPolicy, hbits]

/-- Any other policy is an error (47_modeset.md R256). -/
theorem scalprogBody_secondary_error {s : State} (h : policyNum s ≠ 0) :
    scalprogBody msc1 .secondary (prologue s) = raise statusEScaling (setStep 5 (prologue s)) := by
  have hoff : policyOf ((setStep 5 (prologue s)).reg .sPolicy) ≠ .off := by
    rwa [started_sPolicy, Ne, policyOf_eq_off_iff]
  have hincapable : msc1.scalingCapable .secondary ≠ true := by decide
  simp only [scalprogBody, if_neg hincapable, if_neg hoff]

/-- Settles O47: the policy alone chooses between the record and the error. -/
theorem scalprogSecondaryTestsPolicy : Obligations.ScalprogSecondaryTestsPolicy := by
  refine fun s => ⟨fun hoff => ?_, fun herror => ?_⟩ <;>
    refine ⟨frame (scalprogBody msc1 .secondary) s, rfl, ?_⟩
  · have hbody := scalprogBody_secondary_off hoff
    have hrun := ran_then_setReg (ran_setStep 5 (prologue s)) (.curpol .secondary) 0
    rw [← hbody] at hrun
    refine ⟨?_, frame_ended (ran_reg hrun (by decide)),
      pureOn_of_ran (ran_mono (ran_frame hrun) (by decide) (by simp) rfl rfl) ?_ ?_⟩
    · rw [frame_reg, if_neg (by decide), if_neg (by decide), hbody, reg_setReg_same]
    · rw [frame_dr, hbody]
      rfl
    · rw [frame_pr, hbody]
      rfl
  · exact frame_raise (scalprogBody_secondary_error herror)

end Sys2Proof.Proofs.Notify
end
section
/-! STATUS and PHASE as the frame's own (30_encoding.md R91, 10_state.md R37, R38): two machines that differ in
these two registers alone are twins, and the body of every step of a mode set takes twins to twins and
raises the same flags on both. So a command after a command, each in its frame, is the two bodies in one. -/

namespace Sys2Proof.Proofs.Twins

open Sys2Proof Sys2Proof.Machine Sys2Proof.Safety Sys2Proof.Laws Sys2Proof.Proofs.Scaler
  Sys2Proof.Proofs.Solver Sys2Proof.Proofs.Clock Sys2Proof.Proofs.Setbase

/-! ### Twins -/

/-- Every index of the register file has a name (10_state.md R21). -/
theorem index_surjective : Function.Surjective Reg.index := by
  intro i
  have hname : ∀ j : Fin 74, ∃ r ∈ regList, Reg.index r = j := by decide
  obtain ⟨r, -, hr⟩ := hname i
  exact ⟨r, hr⟩

/-- The named registers are the whole register file. -/
theorem regs_ext {s t : State} (h : ∀ r, s.reg r = t.reg r) : s.regs = t.regs := by
  apply Vector.ext
  intro i hi
  obtain ⟨r, hr⟩ := index_surjective ⟨i, hi⟩
  have hval : (Reg.index r).val = i := congrArg Fin.val hr
  subst hval
  exact h r

/-- Two machines that differ in STATUS and PHASE alone. -/
def Twin (s t : State) : Prop :=
  ∃ w, t = { s with regs := w } ∧ ∀ r, r ≠ .status → r ≠ .phase → t.reg r = s.reg r

theorem twin_refl (s : State) : Twin s s := ⟨s.regs, rfl, fun _ _ _ => rfl⟩

theorem twin_symm {s t : State} (h : Twin s t) : Twin t s := by
  obtain ⟨w, rfl, hregs⟩ := h
  exact ⟨s.regs, rfl, fun r hs hp => (hregs r hs hp).symm⟩

theorem twin_trans {s t u : State} (h : Twin s t) (h' : Twin t u) : Twin s u := by
  obtain ⟨w, rfl, hregs⟩ := h
  obtain ⟨w', rfl, hregs'⟩ := h'
  exact ⟨w', rfl, fun r hs hp => (hregs' r hs hp).trans (hregs r hs hp)⟩

theorem twin_reg {s t : State} (h : Twin s t) {r : Reg} (hs : r ≠ .status) (hp : r ≠ .phase) :
    t.reg r = s.reg r := by
  obtain ⟨-, -, hregs⟩ := h
  exact hregs r hs hp

/-- Twins with one STATUS and one PHASE are one machine. -/
theorem twin_eq {s t : State} (h : Twin s t) (hs : t.reg .status = s.reg .status)
    (hp : t.reg .phase = s.reg .phase) : t = s := by
  obtain ⟨w, ht, hregs⟩ := h
  have hfile : t.regs = s.regs := by
    refine regs_ext fun r => ?_
    by_cases hrs : r = .status
    · rw [hrs, hs]
    · by_cases hrp : r = .phase
      · rw [hrp, hp]
      · exact hregs r hrs hrp
  have hw : w = s.regs := by rw [← hfile, ht]
  rw [ht, hw]

/-- A write of STATUS or PHASE gives a twin. -/
theorem twin_setReg_frame {r : Reg} (hr : r = .status ∨ r = .phase) (s : State) (v : Word) :
    Twin s (s.setReg r v) := by
  refine ⟨_, rfl, fun q hs hp => reg_setReg_ne _ _ ?_⟩
  rintro rfl
  exact hr.elim hs hp

theorem twin_prologue (s : State) : Twin s (prologue s) := twin_setReg_frame (.inl rfl) _ _

theorem twin_setStep (n : Nat) (s : State) : Twin s (setStep n s) := twin_setReg_frame (.inr rfl) _ _

theorem twin_setProtocolStep (n : Nat) (s : State) : Twin s (setProtocolStep n s) :=
  twin_setReg_frame (.inr rfl) _ _

/-- A command leaves a twin of what its body leaves. -/
theorem twin_frame (body : State → State) (s : State) : Twin (body (prologue s)) (frame body s) :=
  twin_trans (twin_setReg_frame (.inr rfl) _ _) (twin_setReg_frame (.inl rfl) _ _)

/-! ### Running alike -/

/-- Two runs, from s to a and from t to b, that leave twins and have raised the same flags. -/
def Alike (s t a b : State) : Prop :=
  Twin a b ∧ ∃ flags : Word,
    a.reg .status = s.reg .status ||| flags ∧ b.reg .status = t.reg .status ||| flags

theorem alike_of_twin {s t : State} (h : Twin s t) : Alike s t s t := ⟨h, 0, by simp, by simp⟩

/-- An operation that neither reads nor writes the register file. -/
def RegBlind (f : State → State) : Prop := ∀ s w, f { s with regs := w } = { f s with regs := w }

theorem regBlind_reg {f : State → State} (h : RegBlind f) (s : State) (r : Reg) :
    (f s).reg r = s.reg r := by
  have hsame : f s = { f s with regs := s.regs } := h s s.regs
  rw [hsame]
  rfl

theorem regBlind_busRead (sp : Space) (a : Nat) (owned : Word) :
    RegBlind fun s => (busRead sp a owned s).2 := by
  intro s w
  have hheld : ({ s with regs := w } : State).held sp a = s.held sp a := by cases sp <;> rfl
  simp only [busRead, State.readValue, State.afterRead, hheld]
  cases s.held sp a <;> cases sp <;> rfl

theorem regBlind_busWrite (sp : Space) (a : Nat) (v : Word) : RegBlind (busWrite sp a v) :=
  fun s w => by cases sp <;> rfl

theorem regBlind_busRmw (sp : Space) (a : Nat) (owned v keep : Word) :
    RegBlind (busRmw sp a owned v keep) := by
  intro s w
  have hheld : ({ s with regs := w } : State).held sp a = s.held sp a := by cases sp <;> rfl
  simp only [busRmw, State.readValue, State.afterRead, hheld]
  cases s.held sp a <;> cases sp <;> rfl

section operations
variable {s t a b : State} (h : Alike s t a b)
include h

theorem alike_reg {r : Reg} (hs : r ≠ .status) (hp : r ≠ .phase) : b.reg r = a.reg r := by
  obtain ⟨htwin, -⟩ := h
  exact twin_reg htwin hs hp

theorem alike_regNat {r : Reg} (hs : r ≠ .status) (hp : r ≠ .phase) : b.regNat r = a.regNat r :=
  congrArg BitVec.toNat (alike_reg h hs hp)

/-- What alike runs do to PHASE does not matter. -/
theorem alike_phase (v w : Word) : Alike s t (a.setReg .phase v) (b.setReg .phase w) := by
  obtain ⟨htwin, flags, hs, ht⟩ := h
  refine ⟨twin_trans (twin_symm (twin_setReg_frame (.inr rfl) _ _))
    (twin_trans htwin (twin_setReg_frame (.inr rfl) _ _)), flags, ?_, ?_⟩
  · rw [reg_setReg_ne _ _ (by decide), hs]
  · rw [reg_setReg_ne _ _ (by decide), ht]

theorem alike_setStep (n : Nat) : Alike s t (setStep n a) (setStep n b) := alike_phase h _ _

theorem alike_setProtocolStep (n : Nat) : Alike s t (setProtocolStep n a) (setProtocolStep n b) :=
  alike_phase h _ _

theorem alike_raise (flag : Nat) : Alike s t (raise flag a) (raise flag b) := by
  obtain ⟨htwin, flags, hs, ht⟩ := h
  refine ⟨twin_trans (twin_symm (twin_setReg_frame (.inl rfl) _ _))
    (twin_trans htwin (twin_setReg_frame (.inl rfl) _ _)), flags ||| bitWord flag, ?_, ?_⟩
  · rw [raise_does, reg_setReg_same, hs, BitVec.or_assoc]
  · rw [raise_does, reg_setReg_same, ht, BitVec.or_assoc]

theorem alike_setReg {r : Reg} (hr : r ≠ .status) (v : Word) :
    Alike s t (a.setReg r v) (b.setReg r v) := by
  obtain ⟨⟨w, rfl, hregs⟩, flags, hs, ht⟩ := h
  refine ⟨⟨_, rfl, fun q hqs hqp => ?_⟩, flags, ?_, ?_⟩
  · rw [reg_setReg, reg_setReg, hregs q hqs hqp]
  · rw [reg_setReg_ne _ _ hr, hs]
  · rw [reg_setReg_ne _ _ hr, ht]

theorem alike_setRegNat {r : Reg} (hr : r ≠ .status) (v : Nat) :
    Alike s t (a.setRegNat r v) (b.setRegNat r v) := alike_setReg h hr _

theorem alike_regBlind {f : State → State} (hf : RegBlind f) : Alike s t (f a) (f b) := by
  obtain ⟨⟨w, rfl, hregs⟩, flags, hs, ht⟩ := h
  refine ⟨⟨w, hf a w, fun r hrs hrp => ?_⟩, flags, ?_, ?_⟩
  · rw [regBlind_reg hf, regBlind_reg hf]
    exact hregs r hrs hrp
  · rw [regBlind_reg hf, hs]
  · rw [regBlind_reg hf, ht]

theorem alike_log (e : Event) : Alike s t (a.log e) (b.log e) :=
  alike_regBlind (f := fun u => u.log e) h fun _ _ => rfl

/-- A read presents the same word to twins. -/
theorem alike_busRead_value (sp : Space) (x : Nat) (owned : Word) :
    (busRead sp x owned b).1 = (busRead sp x owned a).1 := by
  obtain ⟨⟨w, rfl, -⟩, -⟩ := h
  cases sp <;> rfl

theorem alike_memRead (k : Config) (c : Ctrl) (r : DReg) :
    Alike s t (memRead k c r a).2 (memRead k c r b).2 := alike_regBlind h (regBlind_busRead _ _ _)

theorem alike_pllRead (k : Config) (c : Ctrl) (r : PReg) :
    Alike s t (pllRead k c r a).2 (pllRead k c r b).2 := alike_regBlind h (regBlind_busRead _ _ _)

theorem alike_pllRmw (k : Config) (c : Ctrl) (r : PReg) (v keep : Word) :
    Alike s t (pllRmw k c r v keep a) (pllRmw k c r v keep b) :=
  alike_regBlind h (regBlind_busRmw _ _ _ _ _)

/-- A core register written to a display register. -/
theorem alike_memWriteReg (k : Config) (c : Ctrl) (r : DReg) {x : Reg} (hs : x ≠ .status)
    (hp : x ≠ .phase) : Alike s t (memWriteReg k c r x a) (memWriteReg k c r x b) := by
  rw [memWriteReg, memWriteReg, alike_reg h hs hp]
  exact alike_regBlind h (regBlind_busWrite _ _ _)

theorem alike_memRmwReg (k : Config) (c : Ctrl) (r : DReg) {x : Reg} (hs : x ≠ .status)
    (hp : x ≠ .phase) (keep : Word) :
    Alike s t (memRmwReg k c r x keep a) (memRmwReg k c r x keep b) := by
  rw [memRmwReg, memRmwReg, alike_reg h hs hp]
  exact alike_regBlind h (regBlind_busRmw _ _ _ _ _)

end operations

section bodies
variable {s t a b : State} (h : Alike s t a b)
include h

/-! ### The timing registers -/

theorem alike_mode : b.mode = a.mode := by
  simp (disch := decide) only [State.mode, State.regNat, alike_reg h]

theorem alike_writeTiming (k : Config) (c : Ctrl) (q : TimingWords) :
    Alike s t (writeTiming k c q a) (writeTiming k c q b) := by
  unfold writeTiming
  rw [alike_reg h (r := .pwr .secondary) (by decide) (by decide)]
  have hhtd := alike_setReg h (r := .tpHtd) (by decide) q.htd
  have hhsw := alike_setReg hhtd (r := .tpHsw) (by decide) q.hsw
  have hvtd := alike_setReg hhsw (r := .tpVtd) (by decide) q.vtd
  have hvsw := alike_setReg hvtd (r := .tpVsw) (by decide) q.vsw
  exact alike_setReg hvsw (by decide) _

theorem alike_timpackBody (k : Config) (c : Ctrl) (v : Variant) :
    Alike s t (timpackBody k c v a) (timpackBody k c v b) := by
  unfold timpackBody
  rw [alike_mode h]
  exact alike_writeTiming h _ _ _

theorem alike_programCtl (k : Config) (c : Ctrl) : Alike s t (programCtl k c a) (programCtl k c b) := by
  cases c with
  | primary => exact h
  | secondary => exact alike_memRmwReg h _ _ _ (by decide) (by decide) _

theorem alike_programTiming (k : Config) (c : Ctrl) :
    Alike s t (programTiming k c a) (programTiming k c b) := by
  have hhtd := alike_memWriteReg h k c .hTotalDisp (x := .tpHtd) (by decide) (by decide)
  have hhsw := alike_memWriteReg hhtd k c .hSyncStrtWid (x := .tpHsw) (by decide) (by decide)
  have hvtd := alike_memWriteReg hhsw k c .vTotalDisp (x := .tpVtd) (by decide) (by decide)
  exact alike_memWriteReg hvtd k c .vSyncStrtWid (by decide) (by decide)

theorem alike_timprogBody (k : Config) (c : Ctrl) :
    Alike s t (timprogBody k c a) (timprogBody k c b) :=
  alike_programTiming (alike_programCtl (alike_timpackBody (alike_setStep h 2) k c .std) k c) k c

/-! ### The clock -/

theorem alike_waitReads (k : Config) (c : Ctrl) (more n : Nat) :
    (waitReads k c more n b).1 = (waitReads k c more n a).1 ∧
      Alike s t (waitReads k c more n a).2 (waitReads k c more n b).2 := by
  induction more generalizing n a b with
  | zero => exact ⟨rfl, alike_pllRead h _ _ _⟩
  | succ more ih =>
    have hread := alike_pllRead h k c .pllRefDiv
    have hvalue : (pllRead k c .pllRefDiv b).1 = (pllRead k c .pllRefDiv a).1 :=
      alike_busRead_value h _ _ _
    simp only [waitReads, hvalue]
    split_ifs
    · exact ih hread _
    · exact ⟨rfl, hread⟩

theorem alike_waitPending (k : Config) (c : Ctrl) :
    Alike s t (waitPending k c a) (waitPending k c b) := by
  obtain ⟨hcount, hreads⟩ := alike_waitReads h k c (k.waitBound - 1) 0
  simp only [waitPending, hcount]
  exact alike_setRegNat hreads (by decide) _

theorem alike_writeDividers (k : Config) (c : Ctrl) (ref fb frac pcode gain : Nat) :
    Alike s t (writeDividers k c ref fb frac pcode gain a) (writeDividers k c ref fb frac pcode gain b) :=
  alike_pllRmw (alike_pllRmw (alike_pllRmw h _ _ _ _ _) _ _ _ _ _) _ _ _ _ _

theorem alike_toggleAtomic (k : Config) (c : Ctrl) :
    Alike s t (toggleAtomic k c a) (toggleAtomic k c b) :=
  alike_pllRmw (alike_pllRmw h _ _ _ _ _) _ _ _ _ _

theorem alike_commit (k : Config) (c : Ctrl) (ref fb frac pcode gain : Nat) :
    Alike s t (commit k c ref fb frac pcode gain a) (commit k c ref fb frac pcode gain b) := by
  have hfirst := alike_waitPending (alike_setProtocolStep h 1) k c
  have hdividers := alike_writeDividers (alike_setProtocolStep hfirst 2) k c ref fb frac pcode gain
  have htoggle := alike_toggleAtomic (alike_setProtocolStep hdividers 3) k c
  exact alike_setProtocolStep (alike_waitPending (alike_setProtocolStep htoggle 4) k c) 0

theorem alike_commitSolution (k : Config) (c : Ctrl) :
    Alike s t (commitSolution k c a) (commitSolution k c b) := by
  unfold commitSolution
  simp (disch := decide) only [alike_regNat h]
  exact alike_commit h _ _ _ _ _ _ _

theorem alike_writeSolution (q : PllSolution) : Alike s t (writeSolution q a) (writeSolution q b) := by
  have href := alike_setRegNat h (r := .solRef) (by decide) q.ref
  have hfb := alike_setRegNat href (r := .solFb) (by decide) q.fb
  have hfrac := alike_setRegNat hfb (r := .solFrac) (by decide) q.frac
  have hpost := alike_setRegNat hfrac (r := .solPost) (by decide) q.post
  have hpcode := alike_setRegNat hpost (r := .solPcode) (by decide) q.pcode
  have hclk := alike_setRegNat hpcode (r := .solClk) (by decide) q.clk
  exact alike_setRegNat hclk (by decide) q.gain

theorem alike_slowPath (k : Config) (c : Ctrl) : Alike s t (slowPath k c a) (slowPath k c b) :=
  alike_setProtocolStep
    (alike_log (alike_setProtocolStep (alike_commitSolution h k c) 5) (.delay k.settleMs)) 0

theorem alike_fastPath (k : Config) (c : Ctrl) : Alike s t (fastPath k c a) (fastPath k c b) :=
  alike_raise (alike_pllRmw h _ _ _ _ _) _

theorem alike_triplesMatch (k : Config) (x y : Word) : triplesMatch k x y b = triplesMatch k x y a := by
  simp (disch := decide) only [triplesMatch, alike_regNat h]

theorem alike_programClock (k : Config) (c : Ctrl) :
    Alike s t (programClock k c a) (programClock k c b) := by
  have hcaps : b.powerSensitive = a.powerSensitive :=
    congrArg (testBit · capsPowerSensitive) (alike_reg h (by decide) (by decide))
  have href := alike_pllRead h k c .pllRefDiv
  have hrefValue : (pllRead k c .pllRefDiv b).1 = (pllRead k c .pllRefDiv a).1 :=
    alike_busRead_value h _ _ _
  have hfb := alike_pllRead href k c .pllFbPost
  have hfbValue : (pllRead k c .pllFbPost (pllRead k c .pllRefDiv b).2).1 =
      (pllRead k c .pllFbPost (pllRead k c .pllRefDiv a).2).1 := alike_busRead_value href _ _ _
  simp only [programClock, hcaps, hrefValue, hfbValue, alike_triplesMatch hfb]
  split_ifs
  · exact alike_fastPath hfb k c
  · exact alike_slowPath hfb k c
  · exact alike_slowPath h k c

theorem alike_solution (c : Ctrl) : b.solution msc1 c = a.solution msc1 c :=
  solution_congr fun _ hr => alike_reg h (ne_of_mem_of_not_mem hr (by simp [solutionOperands]))
    (ne_of_mem_of_not_mem hr (by simp [solutionOperands]))

theorem alike_pllprogBody (c : Ctrl) :
    Alike s t (pllprogBody msc1 c a) (pllprogBody msc1 c b) := by
  have hstep := alike_setStep h 3
  simp only [pllprogBody, alike_solution hstep c]
  exact alike_programClock (alike_writeSolution hstep _) msc1 c

/-! ### The notification and the scaler -/

theorem alike_bwnotifyBody (c : Ctrl) : Alike s t (bwnotifyBody c a) (bwnotifyBody c b) := by
  have hstep := alike_setStep h 4
  simp only [bwnotifyBody, alike_reg hstep (r := .solClk) (by decide) (by decide)]
  exact alike_log hstep _

theorem alike_scaled (hinc vinc : Bool) : b.scaled msc1 hinc vinc = a.scaled msc1 hinc vinc :=
  scaled_congr (fun _ hr => alike_reg h (ne_of_mem_of_not_mem hr (by decide))
    (ne_of_mem_of_not_mem hr (by decide))) hinc vinc

theorem alike_writeOverrides (o : Overrides) :
    Alike s t (writeOverrides o a) (writeOverrides o b) := by
  have hhtd := alike_setReg h (r := .scPtHtd) (by decide) o.timing.htd
  have hhsw := alike_setReg hhtd (r := .scPtHsw) (by decide) o.timing.hsw
  have hvtd := alike_setReg hhsw (r := .scPtVtd) (by decide) o.timing.vtd
  have hvsw := alike_setReg hvtd (r := .scPtVsw) (by decide) o.timing.vsw
  have hactH := alike_setReg hvsw (r := .scActH) (by decide) o.actH
  exact alike_setReg hactH (by decide) o.actV

theorem alike_writeScaler (q : ScalerResult) : Alike s t (writeScaler q a) (writeScaler q b) := by
  have hhstr := alike_setReg h (r := .scHstr) (by decide) q.hstr
  have hvstr := alike_setReg hhstr (r := .scVstr) (by decide) q.vstr
  have hcenter := alike_setReg hvstr (r := .scCenter) (by decide) q.center
  exact alike_writeOverrides (alike_setReg hcenter (by decide) _) _

theorem alike_scalerFromHardware :
    Alike s t (scalerFromHardware msc1 a) (scalerFromHardware msc1 b) := by
  have hhorz := alike_memRead h msc1 .primary .horzStretch
  have hhorzValue : (memRead msc1 .primary .horzStretch b).1 = (memRead msc1 .primary .horzStretch a).1 :=
    alike_busRead_value h _ _ _
  have hvert := alike_memRead hhorz msc1 .primary .vertStretch
  have hvertValue : (memRead msc1 .primary .vertStretch (memRead msc1 .primary .horzStretch b).2).1 =
      (memRead msc1 .primary .vertStretch (memRead msc1 .primary .horzStretch a).2).1 :=
    alike_busRead_value hhorz _ _ _
  simp only [scalerFromHardware, hhorzValue, hvertValue, alike_scaled hvert]
  exact alike_writeScaler hvert _

theorem alike_programStretch (k : Config) :
    Alike s t (programStretch k a) (programStretch k b) := by
  have hhorz := alike_memRmwReg h k .primary .horzStretch (x := .scHstr) (by decide) (by decide)
    (bitWord k.stretchAutoInc)
  have hvert := alike_memRmwReg hhorz k .primary .vertStretch (x := .scVstr) (by decide) (by decide)
    (bitWord k.stretchAutoInc)
  exact alike_memRmwReg hvert k .primary .centerCntl (by decide) (by decide) _

theorem alike_programOverrides (k : Config) :
    Alike s t (programOverrides k a) (programOverrides k b) := by
  have hhtd := alike_memWriteReg h k .primary .ptHTotalDisp (x := .scPtHtd) (by decide) (by decide)
  have hhsw := alike_memWriteReg hhtd k .primary .ptHSyncStrtWid (x := .scPtHsw) (by decide) (by decide)
  have hvtd := alike_memWriteReg hhsw k .primary .ptVTotalDisp (x := .scPtVtd) (by decide) (by decide)
  have hvsw := alike_memWriteReg hvtd k .primary .ptVSyncStrtWid (x := .scPtVsw) (by decide) (by decide)
  have hactH := alike_memWriteReg hvsw k .primary .activeH (x := .scActH) (by decide) (by decide)
  simp only [programOverrides, alike_reg h (r := .scOvr) (by decide) (by decide)]
  split_ifs
  · exact alike_memWriteReg hactH k .primary .activeV (by decide) (by decide)
  · exact h

theorem alike_recordPolicy (c : Ctrl) : Alike s t (recordPolicy c a) (recordPolicy c b) := by
  simp only [recordPolicy, alike_reg h (r := .sPolicy) (by decide) (by decide)]
  exact alike_setReg h (by simp) _

theorem alike_scalprogBody (c : Ctrl) :
    Alike s t (scalprogBody msc1 c a) (scalprogBody msc1 c b) := by
  have hstep := alike_setStep h 5
  have hprogram := alike_programOverrides
    (alike_programStretch (alike_scalerFromHardware hstep) msc1) msc1
  simp only [scalprogBody, alike_reg hstep (r := .sPolicy) (by decide) (by decide)]
  split_ifs
  · exact alike_recordPolicy hprogram c
  · exact alike_recordPolicy hstep c
  · exact alike_raise hstep _

end bodies

end Sys2Proof.Proofs.Twins
end
section
/-! Commands made of commands (47_modeset.md R236, R245 to R250): PLLPROG without a read-back is PLLCOMMIT on the
solution and a delay, and MODESET is its five step commands. Both follow from the bodies running alike
on twins. -/

namespace Sys2Proof.Proofs.Sequence

open Sys2Proof Sys2Proof.Machine Sys2Proof.Safety Sys2Proof.Laws Sys2Proof.Proofs.Scaler
  Sys2Proof.Proofs.Solver Sys2Proof.Proofs.Atomic Sys2Proof.Proofs.Setbase Sys2Proof.Proofs.Clock
  Sys2Proof.Proofs.BaseAddress Sys2Proof.Proofs.Twins

/-! ### PLLPROG as solve, commit, delay -/

/-- Without POWER_SENSITIVE the path is the slow one (47_modeset.md R247). -/
theorem pllprogBody_insensitive {c : Ctrl} {s : State} (h : testBit (s.reg .caps) 0 = false) :
    pllprogBody msc1 c (prologue s) = slowPath msc1 c (solutionWritten c s) := by
  rw [pllprogBody_prologue,
    programClock_insensitive c ((solutionWritten_powerSensitive c s).trans h)]

/-- The slow path alone ends with DONE. -/
theorem pllprog_insensitive_ended {c : Ctrl} {s : State} (h : testBit (s.reg .caps) 0 = false) :
    Ended 0x00000002#32 (frame (pllprogBody msc1 c) s) := by
  obtain ⟨first, second, es, -, hrun, -⟩ := slowPath_does c (solutionWritten c s)
  have hall := ran_trans (ran_solutionWritten c s) hrun
  rw [← pllprogBody_insensitive h] at hall
  exact frame_ended (ran_reg hall (by decide))

/-- PLLPROG without POWER_SENSITIVE is PLLCOMMIT, and a delay, on any machine that has the solution written
and is a twin of its own. -/
theorem pllprog_eq_commit_delay {c : Ctrl} {s v : State} (hcaps : testBit (s.reg .caps) 0 = false)
    (hv : Twin v (solutionWritten c s)) :
    ∃ u, exec (.pllcommit c) v = .next u ∧
      exec (.pllprog c) s = .next { u with trace := u.trace ++ [.delay 50] } := by
  obtain ⟨u, -, -, -, hexec, -, -, ⟨hustatus, huphase⟩, -⟩ := exec_pllcommit c v
  have hu : frame (commitSolution msc1 c) v = u := Host.Outcome.next.inj hexec
  obtain ⟨hstatus, hphase⟩ := pllprog_insensitive_ended (c := c) hcaps
  obtain ⟨hcommit, -⟩ := alike_commitSolution
    (alike_of_twin (twin_trans (twin_symm (twin_prologue v)) hv)) msc1 c
  have hbody : Twin u (commitSolution msc1 c (solutionWritten c s)) :=
    hu ▸ twin_trans (twin_symm (twin_frame (commitSolution msc1 c) v)) hcommit
  have hdelay : Twin (u.log (.delay 50)) (slowPath msc1 c (solutionWritten c s)) := by
    obtain ⟨hlogged, -⟩ := alike_log (alike_of_twin (twin_trans hbody (twin_setProtocolStep 5 _)))
      (.delay 50)
    exact twin_trans hlogged (twin_setProtocolStep 0 _)
  rw [← pllprogBody_insensitive hcaps] at hdelay
  have hsame := twin_eq (twin_trans hdelay (twin_frame (pllprogBody msc1 c) s))
    (hstatus.trans hustatus.symm) (hphase.trans huphase.symm)
  exact ⟨u, hexec, congrArg Host.Outcome.next hsame⟩

/-- A solution written on a twin of PLLPROG's start. -/
theorem twin_solutionWritten {c : Ctrl} {s v : State} (hv : Twin v s) :
    Twin (writeSolution (s.solution msc1 c) v) (solutionWritten c s) := by
  have hstart : Twin s (setStep 3 (prologue s)) := twin_trans (twin_prologue s) (twin_setStep 3 _)
  have hsolution : (setStep 3 (prologue s)).solution msc1 c = s.solution msc1 c :=
    alike_solution (alike_of_twin hstart) c
  obtain ⟨hwritten, -⟩ := alike_writeSolution (alike_of_twin (twin_trans hv hstart)) (s.solution msc1 c)
  rw [solutionWritten, hsolution]
  exact hwritten

/-- The honoured dividers as the words that SOL_* take (47_modeset.md R246). -/
theorem writeSolution_honoured (c : Ctrl) (s : State) :
    writeSolution (s.honoured msc1 c) s =
      withSolution s (s.reg .xRef) (s.reg .xFb) (s.reg .xPost)
        (BitVec.ofNat 32 (postCode (s.regNat .xPost)))
        (if s.reg .xRef = 0 ∨ s.reg .xPost = 0 then 0
          else BitVec.ofNat 32 (s.regNat (.dReffreq c) * s.regNat .xFb /
            (s.regNat .xRef * s.regNat .xPost)))
        (BitVec.ofNat 32 (gainOf (s.regNat (.dReffreq c)) (s.regNat .xRef) (s.regNat .xFb))) := by
  rw [← honoured_clk, ← postCodeOf_msc1, ← ofNat_regNat s .xRef, ← ofNat_regNat s .xFb,
    ← ofNat_regNat s .xPost]
  rfl

/-- Settles O44: PLLSOLVE leaves a twin of the machine with its solution written, and the honoured solution
is written whole. -/
theorem pllprogIsSolveCommitDelay : Obligations.PllprogIsSolveCommitDelay := by
  intro c s hcaps
  refine ⟨fun hflag => ?_, fun hflag => ?_⟩
  · have hsolution : s.solution msc1 c = s.solved msc1 c := if_neg (Bool.eq_false_iff.mp hflag)
    have hsolve : pllsolveBody msc1 c (prologue s) = writeSolution (s.solution msc1 c) (prologue s) := by
      rw [hsolution, ← solved_prologue]
      rfl
    have htwin := twin_solutionWritten (c := c) (twin_symm (twin_prologue s))
    rw [← hsolve] at htwin
    have hframe := twin_trans (twin_symm (twin_frame (pllsolveBody msc1 c) s)) htwin
    obtain ⟨u, hcommit, hprog⟩ := pllprog_eq_commit_delay hcaps hframe
    exact ⟨frame (pllsolveBody msc1 c) s, u, rfl, hcommit, hprog⟩
  · have hsolution : s.solution msc1 c = s.honoured msc1 c := if_pos hflag
    have htwin := twin_solutionWritten (c := c) (twin_refl s)
    rw [hsolution, writeSolution_honoured] at htwin
    exact pllprog_eq_commit_delay hcaps htwin

/-! ### MODESET as five commands -/

/-- Step 1 loses its pin only under a supported format whose pin fails (47_modeset.md R239). -/
theorem setbaseRun_ne_pinFailed (c : Ctrl) {s : State}
    (h : s.regNat .fbFormat ∈ [8, 15, 16, 24, 32] → s.nextPin ≠ .fail) :
    (setbaseRun msc1 c s).1 ≠ .pinFailed := by
  by_cases hformat : s.regNat .fbFormat ∈ [8, 15, 16, 24, 32]
  · have hbytes : ∀ n ∈ [8, 15, 16, 24, 32], ∃ p ∈ msc1.formats, p.1 = n := by decide
    obtain ⟨⟨code, bytes⟩, hmem, rfl⟩ := hbytes _ hformat
    cases hpin : s.nextPin with
    | ok base tiling =>
      rw [setbaseRun_of_pinned c hmem hpin]
      exact fun hend => nomatch hend
    | fail => exact absurd hpin (h hformat)
  · rw [setbaseRun_of_unsupported c hformat]
    exact fun hend => nomatch hend

/-- A mode set that does not lose its pin runs all five bodies (47_modeset.md R236). -/
theorem modesetBody_of_ne_pinFailed {k : Config} {c : Ctrl} {s : State}
    (h : (setbaseRun k c s).1 ≠ .pinFailed) :
    modesetBody k c s =
      scalprogBody k c (bwnotifyBody c (pllprogBody k c (timprogBody k c (setbaseBody k c s)))) := by
  unfold modesetBody setbaseBody
  generalize setbaseRun k c s = run at h ⊢
  obtain ⟨ending, t⟩ := run
  cases ending with
  | pinFailed => exact absurd rfl h
  | badFormat => rfl
  | done => rfl

/-- The epilogue over the flags of two runs in one command (30_encoding.md R91). -/
theorem statusAtEnd_or (v flags : Word) :
    statusAtEnd (v ||| flags) = statusAtEnd v ||| statusAtEnd (1#32 ||| flags) := by
  have hbusy : ∀ w : Word, statusAtEnd w = (w &&& 0xFFFFFFFE#32) ||| 0x00000002#32 := fun _ => rfl
  have hone : (1#32 : Word) &&& 0xFFFFFFFE#32 = 0 := by decide
  rw [hbusy, hbusy, hbusy, BitVec.and_or_distrib_right, BitVec.and_or_distrib_right, hone]
  apply BitVec.eq_of_getLsbD_eq
  intro i hi
  simp only [BitVec.getLsbD_or, BitVec.getLsbD_and]
  cases (0x00000002#32).getLsbD i <;> simp

/-- What a mode set has reached, beside the state a step command has left: a twin of it, with the flags of
the commands so far in STATUS. -/
def Follows (status : Word) (m s : State) : Prop := Twin m s ∧ statusAtEnd (m.reg .status) = status

/-- The next body inside the mode set follows the next command. -/
theorem follows_next {status : Word} {m s : State} {body : State → State} (h : Follows status m s)
    (hbody : ∀ {s t a b : State}, Alike s t a b → Alike s t (body a) (body b)) :
    Follows (status ||| (frame body s).reg .status) (body m) (frame body s) := by
  obtain ⟨htwin, hstatus⟩ := h
  obtain ⟨hnext, flags, hm, hs⟩ := hbody (alike_of_twin (twin_trans htwin (twin_prologue s)))
  refine ⟨twin_trans hnext (twin_frame body s), ?_⟩
  rw [hm, statusAtEnd_or, hstatus, frame_reg, if_pos rfl, hs, prologue_reg, if_pos rfl]

/-- The end of the mode set is the last command's, with the flags of all. -/
theorem frame_eq_of_follows {status : Word} {body : State → State} {s t : State}
    (h : Follows status (body (prologue s)) t) (hphase : t.reg .phase = 0) :
    frame body s = t.setReg .status status := by
  obtain ⟨htwin, hstatus⟩ := h
  have hframe := twin_trans (twin_symm (twin_frame body s)) htwin
  refine twin_eq (twin_trans (twin_symm (twin_setReg_frame (.inl rfl) t status)) (twin_symm hframe)) ?_ ?_
  · rw [frame_reg, if_pos rfl, hstatus, reg_setReg_same]
  · rw [frame_reg, if_neg (by decide), if_pos rfl, reg_setReg_ne _ _ (by decide), hphase]

/-- Settles O48: each body of the mode set follows its command, so the end is the last command's. -/
theorem modesetIsFiveSteps : Obligations.ModesetIsFiveSteps := by
  intro c s hpin
  rw [← prologue_regNat_fbFormat] at hpin
  have hbody := modesetBody_of_ne_pinFailed (setbaseRun_ne_pinFailed c (s := prologue s) hpin)
  let s1 := frame (setbaseBody msc1 c) s
  let s2 := frame (timprogBody msc1 c) s1
  let s3 := frame (pllprogBody msc1 c) s2
  let s4 := frame (bwnotifyBody c) s3
  let s5 := frame (scalprogBody msc1 c) s4
  have h1 : Follows (s1.reg .status) (setbaseBody msc1 c (prologue s)) s1 :=
    ⟨twin_frame _ _, by rw [frame_reg, if_pos rfl]⟩
  have h2 := follows_next h1 (body := timprogBody msc1 c) fun h => alike_timprogBody h msc1 c
  have h3 := follows_next h2 (body := pllprogBody msc1 c) fun h => alike_pllprogBody h c
  have h4 := follows_next h3 (body := bwnotifyBody c) fun h => alike_bwnotifyBody h c
  have h5 := follows_next h4 (body := scalprogBody msc1 c) fun h => alike_scalprogBody h c
  rw [← hbody] at h5
  have hphase : s5.reg .phase = 0 := by rw [frame_reg, if_neg (by decide), if_pos rfl]
  exact ⟨s1, s2, s3, s4, s5, rfl, rfl, rfl, rfl, rfl,
    congrArg Host.Outcome.next (frame_eq_of_follows h5 hphase)⟩

end Sys2Proof.Proofs.Sequence
end
section
/-! Every command as a run of shared operations of one controller (20_memory.md R63 to R82, 70_reset_and_hazards.md
R325): which core registers it may write, which addresses it may touch, and how many operations of each
kind it makes. The rules about every command are read off the run. -/

namespace Sys2Proof.Proofs.Operations

open Sys2Proof Sys2Proof.Machine Sys2Proof.Safety Sys2Proof.Laws Sys2Proof.Proofs.Scaler
  Sys2Proof.Proofs.Timing Sys2Proof.Proofs.Dpms Sys2Proof.Proofs.Clock Sys2Proof.Proofs.TimingProgram
  Sys2Proof.Proofs.Stepping

/-! ### Budgets -/

/-- How many writes, read-modify-writes, reads, calls of a collaborator and delays. -/
abbrev Budget : Type := Nat × Nat × Nat × Nat × Nat

/-- The operations of each kind among events (70_reset_and_hazards.md R325). -/
def spent (es : List Event) : Budget :=
  (es.countP isWrite, es.countP isRmw, es.countP isRead, es.countP isCall, es.countP isDelay)

theorem spent_append (es es' : List Event) : spent (es ++ es') = spent es + spent es' := by
  simp [spent, List.countP_append]

/-- Every event is of one kind. -/
theorem length_eq_sum_spent (es : List Event) :
    es.length = es.countP isWrite + es.countP isRmw + es.countP isRead + es.countP isCall +
      es.countP isDelay := by
  induction es with
  | nil => rfl
  | cons e es ih =>
    have hkind : 1 = (isWrite e).toNat + (isRmw e).toNat + (isRead e).toNat + (isCall e).toNat +
        (isDelay e).toNat := by cases e <;> rfl
    have hcons : ∀ p : Event → Bool, (e :: es).countP p = es.countP p + (p e).toNat := by
      intro p
      rw [List.countP_cons]
      cases p e <;> rfl
    rw [List.length_cons, ih, hcons, hcons, hcons, hcons, hcons]
    omega

/-! ### Runs -/

/-- An address that exists, in a controller's block or bank (20_memory.md R71, R72). -/
def OwnWord (c : Ctrl) (sp : Space) (a : Nat) : Prop := inBlock c sp a ∧ a ∈ wordsOf sp

theorem ownWord_pr (c : Ctrl) (r : PReg) : OwnWord c .pr (prAddr msc1 c r) := by
  have hall : ∀ p ∈ PReg.existing, (prBlock p.1 ≤ prAddr msc1 p.1 p.2 ∧
      prAddr msc1 p.1 p.2 < prBlock p.1 + 0x10) ∧ prAddr msc1 p.1 p.2 ∈ prWords := by decide
  exact hall (c, r) (by cases c <;> cases r <;> decide)

theorem ownWord_dr {c : Ctrl} {r : DReg} (h : (c, r) ∈ DReg.existing) :
    OwnWord c .dr (drAddr msc1 c r) := by
  have hall : ∀ p ∈ DReg.existing, (drBlock p.1 ≤ drAddr msc1 p.1 p.2 ∧
      drAddr msc1 p.1 p.2 < drBlock p.1 + 0x40) ∧ drAddr msc1 p.1 p.2 ∈ drWords := by decide
  exact hall (c, r) h

/-- A run from s of the shared operations as a command of controller c uses them: core registers among rs
alone are written, only the controller's own registers are read and written, a read-modify-write has no
bit of its value under the keep mask, only a command that writes CURFB pins, and no more than a budget
is spent. -/
inductive Run (c : Ctrl) (rs : List Reg) (s : State) : Budget → State → Prop
  | start : Run c rs s 0 s
  | widen {b b' : Budget} {t : State} (h : Run c rs s b t) (hb : b ≤ b') : Run c rs s b' t
  | setReg {b : Budget} {t : State} (h : Run c rs s b t) {r : Reg} (hr : r ∈ rs) (v : Word) :
      Run c rs s b (t.setReg r v)
  | read {b : Budget} {t : State} (h : Run c rs s b t) {sp : Space} {a : Nat} (ha : OwnWord c sp a)
      (owned : Word) : Run c rs s (b + (0, 0, 1, 0, 0)) (busRead sp a owned t).2
  | write {b : Budget} {t : State} (h : Run c rs s b t) {a : Nat} (ha : OwnWord c .dr a) (v : Word) :
      Run c rs s (b + (1, 0, 0, 0, 0)) (busWrite .dr a v t)
  | rmw {b : Budget} {t : State} (h : Run c rs s b t) {sp : Space} {a : Nat} (ha : OwnWord c sp a)
      {v keep : Word} (hv : v &&& keep = 0) (owned : Word) :
      Run c rs s (b + (0, 1, 0, 0, 0)) (busRmw sp a owned v keep t)
  | pin {b : Budget} {t : State} (h : Run c rs s b t) (hc : .curfb c ∈ rs) (handle : Word) :
      Run c rs s (b + (0, 0, 0, 1, 0)) (pinHandle handle t).2
  | unpin {b : Budget} {t : State} (h : Run c rs s b t) (hc : .curfb c ∈ rs) (handle : Word) :
      Run c rs s (b + (0, 0, 0, 1, 0)) (unpinHandle handle t)
  | notify {b : Budget} {t : State} (h : Run c rs s b t) (clock : Word) :
      Run c rs s (b + (0, 0, 0, 1, 0)) (bwNotifyCall c clock t)
  | palette {b : Budget} {t : State} (h : Run c rs s b t) :
      Run c rs s (b + (0, 0, 0, 1, 0)) (paletteReload c t)
  | delay {b : Budget} {t : State} (h : Run c rs s b t) :
      Run c rs s (b + (0, 0, 0, 0, 1)) (delayMs 50 t)

/-! ### What a run leaves alone -/

/-- `Pin` changes no core register and no display or PLL register. -/
theorem pinHandle_reg (handle : Word) (s : State) (r : Reg) : (pinHandle handle s).2.reg r = s.reg r := by
  rw [pinHandle_does]; rfl

theorem pinHandle_space (handle : Word) (s : State) (sp : Space) :
    (pinHandle handle s).2.space sp = s.space sp := by
  rw [pinHandle_does]; cases sp <;> rfl

theorem pinHandle_paletteCount (handle : Word) (s : State) (d : Ctrl) :
    (pinHandle handle s).2.paletteCount d = s.paletteCount d := by
  rw [pinHandle_does]; cases d <;> rfl

theorem pinHandle_trace (handle : Word) (s : State) :
    (pinHandle handle s).2.trace = s.trace ++ [.pin handle s.nextPin] := by
  rw [pinHandle_does]; rfl

theorem unpinHandle_space (handle : Word) (s : State) (sp : Space) :
    (unpinHandle handle s).space sp = s.space sp := by
  cases sp <;> rfl

theorem paletteReload_space (c : Ctrl) (s : State) (sp : Space) :
    (paletteReload c s).space sp = s.space sp := by
  cases c <;> cases sp <;> rfl

theorem held_of_space {s t : State} {sp : Space} (h : t.space sp = s.space sp) (a : Nat) :
    t.held sp a = s.held sp a := by
  rw [State.held, h, State.held]

section run
variable {c : Ctrl} {rs : List Reg} {s t : State} {b : Budget} (h : Run c rs s b t)
include h

/-- A core register that is not listed is kept. -/
theorem run_reg {r : Reg} (hr : r ∉ rs) : t.reg r = s.reg r := by
  induction h with
  | start => rfl
  | widen _ _ ih => exact ih
  | setReg _ hq _ ih => rw [reg_setReg_ne _ _ (ne_of_mem_of_not_mem hq hr), ih]
  | read _ _ _ ih => rw [busRead_reg, ih]
  | write _ _ _ ih => rw [busWrite_reg, ih]
  | rmw _ _ _ _ ih => rw [busRmw_reg, ih]
  | pin _ _ _ ih => rw [pinHandle_reg, ih]
  | unpin _ _ _ ih => exact ih
  | notify _ _ ih => exact ih
  | palette _ ih => rw [paletteReload_reg, ih]
  | delay _ ih => exact ih

/-- A register outside the controller's block and bank is kept. -/
theorem run_held {sp : Space} {a : Nat} (ha : ¬ inBlock c sp a) : t.held sp a = s.held sp a := by
  have hother : ∀ {sq : Space} {x : Nat}, OwnWord c sq x → ¬ (sp = sq ∧ a = x) := by
    rintro sq x ⟨hin, -⟩ ⟨rfl, rfl⟩
    exact ha hin
  induction h with
  | start => rfl
  | widen _ _ ih => exact ih
  | setReg _ _ _ ih => rw [setReg_held, ih]
  | read _ hx _ ih => rw [busRead_held, if_neg (hother hx), ih]
  | write _ hx _ ih => rw [busWrite_held, if_neg (hother hx), ih]
  | rmw _ hx _ _ ih => rw [busRmw_held, if_neg (hother hx), ih]
  | pin _ _ _ ih => rw [held_of_space (pinHandle_space _ _ sp), ih]
  | unpin _ _ _ ih => rw [held_of_space (unpinHandle_space _ _ sp), ih]
  | notify _ _ ih => rw [bwNotifyCall, log_held, ih]
  | palette _ ih => rw [paletteReload_held, ih]
  | delay _ ih => rw [delayMs, log_held, ih]

/-- A command that does not write CURFB leaves the pins alone. -/
theorem run_pins (hc : .curfb c ∉ rs) : t.pins = s.pins := by
  induction h with
  | start => rfl
  | widen _ _ ih => exact ih
  | setReg _ _ _ ih => exact ih
  | read _ _ _ ih => rw [busRead_pins, ih]
  | write _ _ _ ih => rw [busWrite_pins, ih]
  | rmw _ _ _ _ ih => rw [busRmw_pins, ih]
  | pin _ hpin _ _ => exact absurd hpin hc
  | unpin _ hpin _ _ => exact absurd hpin hc
  | notify _ _ ih => exact ih
  | palette _ ih => rw [paletteReload_pins, ih]
  | delay _ ih => exact ih

end run

/-! ### What a run adds to the trace -/

/-- Legal events of the controller are added, within the budget. -/
def Adds (c : Ctrl) (b : Budget) (s t : State) : Prop :=
  ∃ es, t.trace = s.trace ++ es ∧ spent es ≤ b ∧ ∀ e ∈ es, eventLegal e ∧ eventOf c e

/-- One event more. -/
theorem adds_event {c : Ctrl} {b : Budget} {s t u : State} {e : Event} (h : Adds c b s t)
    (hu : u.trace = t.trace ++ [e]) (hlegal : eventLegal e) (hof : eventOf c e) :
    Adds c (b + spent [e]) s u := by
  obtain ⟨es, htrace, hspent, hall⟩ := h
  refine ⟨es ++ [e], by rw [hu, htrace, List.append_assoc], ?_, fun x hx => ?_⟩
  · rw [spent_append]
    exact add_le_add_left hspent _
  · rcases List.mem_append.mp hx with hx | hx
    · exact hall x hx
    · rw [List.mem_singleton.mp hx]
      exact ⟨hlegal, hof⟩

theorem run_adds {c : Ctrl} {rs : List Reg} {s t : State} {b : Budget} (h : Run c rs s b t) :
    Adds c b s t := by
  induction h with
  | start => exact ⟨[], (List.append_nil _).symm, le_rfl, List.forall_mem_nil _⟩
  | widen _ hb ih =>
    obtain ⟨es, htrace, hspent, hall⟩ := ih
    exact ⟨es, htrace, hspent.trans hb, hall⟩
  | setReg _ _ _ ih => exact ih
  | read _ ha _ ih => exact adds_event ih (busRead_trace _ _ _ _) ha.2 ha.1
  | write _ ha _ ih => exact adds_event ih (busWrite_trace _ _ _ _) ⟨rfl, ha.2⟩ ha.1
  | rmw _ ha hv _ ih =>
    exact adds_event ih (busRmw_trace _ _ _ _ _ _) ⟨ha.2, hv, rmwWord_of_disjoint _ hv⟩ ha.1
  | pin _ _ _ ih => exact adds_event ih (pinHandle_trace _ _) trivial trivial
  | unpin _ _ handle ih => exact adds_event (e := .unpin handle) ih rfl trivial trivial
  | notify _ clock ih => exact adds_event (e := .bw c clock) ih rfl trivial rfl
  | palette _ ih => exact adds_event ih (paletteReload_trace _ _) trivial rfl
  | delay _ ih => exact adds_event (e := .delay 50) ih rfl rfl trivial

/-- The palette counts go with the palette events (10_state.md R57). -/
def PaletteCounted (s t : State) : Prop :=
  ∀ d, t.paletteCount d + s.trace.count (.palette d) = s.paletteCount d + t.trace.count (.palette d)

/-- An event that is no palette reload changes no count. -/
theorem paletteCounted_event {s t u : State} {e : Event} (h : PaletteCounted s t)
    (hu : u.trace = t.trace ++ [e]) (hcount : ∀ d, u.paletteCount d = t.paletteCount d)
    (he : ∀ d, e ≠ .palette d) : PaletteCounted s u := by
  intro d
  rw [hcount, h d, hu, List.count_append, List.count_singleton, if_neg (by simpa using he d), add_zero]

theorem paletteCount_of_eq {s t : State} (hpri : t.palettePri = s.palettePri)
    (hsec : t.paletteSec = s.paletteSec) (d : Ctrl) : t.paletteCount d = s.paletteCount d := by
  cases d
  · exact hpri
  · exact hsec

theorem run_paletteCounted {c : Ctrl} {rs : List Reg} {s t : State} {b : Budget} (h : Run c rs s b t) :
    PaletteCounted s t := by
  induction h with
  | start => exact fun d => rfl
  | widen _ _ ih => exact ih
  | setReg _ _ _ ih => exact fun d => by cases d; exacts [ih .primary, ih .secondary]
  | read _ _ _ ih =>
    exact paletteCounted_event ih (busRead_trace _ _ _ _)
      (paletteCount_of_eq (busRead_palettePri _ _ _ _) (busRead_paletteSec _ _ _ _)) (by simp)
  | write _ _ _ ih =>
    exact paletteCounted_event ih (busWrite_trace _ _ _ _)
      (paletteCount_of_eq (busWrite_palettePri _ _ _ _) (busWrite_paletteSec _ _ _ _)) (by simp)
  | rmw _ _ _ _ ih =>
    exact paletteCounted_event ih (busRmw_trace _ _ _ _ _ _)
      (paletteCount_of_eq (busRmw_palettePri _ _ _ _ _ _) (busRmw_paletteSec _ _ _ _ _ _)) (by simp)
  | pin _ _ _ ih =>
    exact paletteCounted_event ih (pinHandle_trace _ _) (pinHandle_paletteCount _ _) (by simp)
  | unpin _ _ handle ih =>
    exact paletteCounted_event (e := .unpin handle) ih rfl (paletteCount_of_eq rfl rfl) (by simp)
  | notify _ clock ih =>
    exact paletteCounted_event (e := .bw c clock) ih rfl (paletteCount_of_eq rfl rfl) (by simp)
  | palette _ ih =>
    intro d
    have hone : [Event.palette c].count (.palette d) = if d = c then 1 else 0 := by
      cases c <;> cases d <;> rfl
    rw [paletteReload_paletteCount, paletteReload_trace, List.count_append, hone, add_right_comm, ih d,
      add_assoc]
  | delay _ ih =>
    exact paletteCounted_event (e := .delay 50) ih rfl (paletteCount_of_eq rfl rfl) (by simp)

/-! ### What a run keeps of the storage -/

/-- A space lists only registers that exist. -/
def ListsExisting (s : State) : Prop := ∀ sp, ∀ e ∈ s.space sp, e.1 ∈ wordsOf sp

theorem storageLegal_iff (s : State) :
    storageLegal s ↔ spacesWf s ∧ pinsWf s.pins = true ∧ ListsExisting s := by
  have hlists : ListsExisting s ↔ (∀ e ∈ s.dr, e.1 ∈ drWords) ∧ ∀ e ∈ s.pr, e.1 ∈ prWords :=
    ⟨fun h => ⟨h .dr, h .pr⟩, fun h sp => by cases sp; exacts [h.1, h.2]⟩
  rw [spacesWf_iff, hlists, storageLegal]
  tauto

theorem storageLegal_of_eq {s t : State} (hs : storageLegal s) (hdr : t.dr = s.dr) (hpr : t.pr = s.pr)
    (hpins : t.pins = s.pins) : storageLegal t := by
  unfold storageLegal at *
  rwa [hdr, hpr, hpins]

theorem storageLegal_of_space {s t : State} (hs : storageLegal s) (h : ∀ sp, t.space sp = s.space sp)
    (hpins : t.pins = s.pins) : storageLegal t := storageLegal_of_eq hs (h .dr) (h .pr) hpins

/-- A store at an address that exists keeps the storage legal. -/
theorem storageLegal_store {s : State} (hs : storageLegal s) {sp : Space} {a : Nat}
    (ha : a ∈ wordsOf sp) (v : Word) : storageLegal (s.store sp a v) := by
  rw [storageLegal_iff] at hs ⊢
  obtain ⟨hwf, hpins, hlists⟩ := hs
  refine ⟨spacesWf_store hwf sp a v, by rwa [store_pins], fun sq e he => ?_⟩
  rw [store_space] at he
  split_ifs at he with hsp
  · subst hsp
    rcases mem_tableSet he with rfl | he
    · exact ha
    · exact hlists sq e he
  · exact hlists sq e he

theorem storageLegal_log {s : State} (hs : storageLegal s) (e : Event) : storageLegal (s.log e) :=
  storageLegal_of_eq hs rfl rfl rfl

theorem storageLegal_afterRead {s : State} (hs : storageLegal s) {sp : Space} {a : Nat}
    (ha : a ∈ wordsOf sp) : storageLegal (s.afterRead sp a) := by
  have hdrawn : storageLegal s.advanceRead := storageLegal_of_eq hs rfl rfl rfl
  unfold State.afterRead
  split
  · exact hdrawn
  · exact storageLegal_store hdrawn ha _

theorem storageLegal_pinHandle {s : State} (hs : storageLegal s) (handle : Word) :
    storageLegal (pinHandle handle s).2 := by
  rw [pinHandle_does]
  cases s.nextPin with
  | ok base tiling =>
    obtain ⟨hdr, hpr, hpins, hlists⟩ := hs
    exact ⟨hdr, hpr, pinsWf_pinsAdd _ hpins, hlists⟩
  | fail => exact storageLegal_of_eq hs rfl rfl rfl

theorem storageLegal_unpinHandle {s : State} (hs : storageLegal s) (handle : Word) :
    storageLegal (unpinHandle handle s) := by
  obtain ⟨hdr, hpr, hpins, hlists⟩ := hs
  exact ⟨hdr, hpr, pinsWf_pinsRemove _ hpins, hlists⟩

theorem run_storageLegal {c : Ctrl} {rs : List Reg} {s t : State} {b : Budget} (h : Run c rs s b t)
    (hs : storageLegal s) : storageLegal t := by
  induction h with
  | start => exact hs
  | widen _ _ ih => exact ih
  | setReg _ _ _ ih => exact storageLegal_of_eq ih rfl rfl rfl
  | read _ ha _ ih => exact storageLegal_log (storageLegal_afterRead ih ha.2) _
  | write _ ha _ ih => exact storageLegal_log (storageLegal_store ih ha.2 _) _
  | rmw _ ha _ _ ih =>
    exact storageLegal_log (storageLegal_store (storageLegal_afterRead ih ha.2) ha.2 _) _
  | pin _ _ handle ih => exact storageLegal_pinHandle ih handle
  | unpin _ _ handle ih => exact storageLegal_unpinHandle ih handle
  | notify _ _ ih => exact storageLegal_log ih _
  | palette _ ih => exact storageLegal_of_space ih (paletteReload_space _ _) (paletteReload_pins _ _)
  | delay _ ih => exact storageLegal_log ih _

end Sys2Proof.Proofs.Operations
end
section
/-! The body of every command as a run (70_reset_and_hazards.md R325), operation by operation, and the rules
about every command that follow: what no command writes, who owns the per-controller state, what the
other controller keeps, and the worst case of operations. -/

namespace Sys2Proof.Proofs.Commands

open Sys2Proof Sys2Proof.Machine Sys2Proof.Safety Sys2Proof.Laws Sys2Proof.Proofs.Scaler
  Sys2Proof.Proofs.Timing Sys2Proof.Proofs.Dpms Sys2Proof.Proofs.Clock Sys2Proof.Proofs.Sequence
  Sys2Proof.Proofs.TimingProgram Sys2Proof.Proofs.Stepping Sys2Proof.Proofs.Operations

/-- Two spendings in one. -/
theorem run_spend {c : Ctrl} {rs : List Reg} {s t : State} {b x y z : Budget}
    (h : Run c rs s (b + x + y) t) (hz : x + y = z) : Run c rs s (b + z) t :=
  h.widen (by rw [add_assoc, hz])

/-- The display registers that both controllers have (10_state.md R40). -/
theorem existing_both (c : Ctrl) :
    ∀ r ∈ [DReg.ctl, .hTotalDisp, .hSyncStrtWid, .vTotalDisp, .vSyncStrtWid, .fbOffset, .fbPitchw],
      (c, r) ∈ DReg.existing := by
  cases c <;> decide

theorem memRmwReg_reg (k : Config) (c : Ctrl) (r : DReg) (x : Reg) (keep : Word) (s : State) (q : Reg) :
    (memRmwReg k c r x keep s).reg q = s.reg q := busRmw_reg _ _ _ _ _ _ _

section bodies
variable {c : Ctrl} {rs : List Reg} {s t : State} {b : Budget} (h : Run c rs s b t)
include h

theorem run_setRegNat {r : Reg} (hr : r ∈ rs) (v : Nat) : Run c rs s b (t.setRegNat r v) := h.setReg hr _

theorem run_setStep (hr : .phase ∈ rs) (n : Nat) : Run c rs s b (setStep n t) := h.setReg hr _

theorem run_setProtocolStep (hr : .phase ∈ rs) (n : Nat) : Run c rs s b (setProtocolStep n t) :=
  h.setReg hr _

theorem run_raise (hr : .status ∈ rs) (flag : Nat) : Run c rs s b (raise flag t) := h.setReg hr _

theorem run_memWriteReg {r : DReg} (hr : (c, r) ∈ DReg.existing) (x : Reg) :
    Run c rs s (b + (1, 0, 0, 0, 0)) (memWriteReg msc1 c r x t) := h.write (ownWord_dr hr) _

theorem run_memRmwReg {r : DReg} (hr : (c, r) ∈ DReg.existing) {x : Reg} {keep : Word}
    (hv : t.reg x &&& keep = 0) : Run c rs s (b + (0, 1, 0, 0, 0)) (memRmwReg msc1 c r x keep t) :=
  h.rmw (ownWord_dr hr) hv _

theorem run_memRead {r : DReg} (hr : (c, r) ∈ DReg.existing) :
    Run c rs s (b + (0, 0, 1, 0, 0)) (memRead msc1 c r t).2 := h.read (ownWord_dr hr) _

theorem run_pllRead (r : PReg) : Run c rs s (b + (0, 0, 1, 0, 0)) (pllRead msc1 c r t).2 :=
  h.read (ownWord_pr c r) _

theorem run_pllRmw (r : PReg) {v keep : Word} (hv : v &&& keep = 0) :
    Run c rs s (b + (0, 1, 0, 0, 0)) (pllRmw msc1 c r v keep t) := h.rmw (ownWord_pr c r) hv _

/-! ### The result registers -/

theorem run_writeSolution (hr : solRegs ⊆ rs) (q : PllSolution) :
    Run c rs s b (writeSolution q t) := by
  have href := run_setRegNat h (hr (show Reg.solRef ∈ solRegs by decide)) q.ref
  have hfb := run_setRegNat href (hr (show Reg.solFb ∈ solRegs by decide)) q.fb
  have hfrac := run_setRegNat hfb (hr (show Reg.solFrac ∈ solRegs by decide)) q.frac
  have hpost := run_setRegNat hfrac (hr (show Reg.solPost ∈ solRegs by decide)) q.post
  have hpcode := run_setRegNat hpost (hr (show Reg.solPcode ∈ solRegs by decide)) q.pcode
  have hclk := run_setRegNat hpcode (hr (show Reg.solClk ∈ solRegs by decide)) q.clk
  exact run_setRegNat hclk (hr (by decide)) q.gain

theorem run_writeTiming (hr : tpRegs ⊆ rs) (q : TimingWords) :
    Run c rs s b (writeTiming msc1 c q t) := by
  have hhtd := h.setReg (hr (show Reg.tpHtd ∈ tpRegs by decide)) q.htd
  have hhsw := hhtd.setReg (hr (show Reg.tpHsw ∈ tpRegs by decide)) q.hsw
  have hvtd := hhsw.setReg (hr (show Reg.tpVtd ∈ tpRegs by decide)) q.vtd
  have hvsw := hvtd.setReg (hr (show Reg.tpVsw ∈ tpRegs by decide)) q.vsw
  exact hvsw.setReg (hr (by decide)) _

theorem run_writeScaler (hr : scRegs ⊆ rs) (q : ScalerResult) : Run c rs s b (writeScaler q t) := by
  have hhstr := h.setReg (hr (show Reg.scHstr ∈ scRegs by decide)) q.hstr
  have hvstr := hhstr.setReg (hr (show Reg.scVstr ∈ scRegs by decide)) q.vstr
  have hcenter := hvstr.setReg (hr (show Reg.scCenter ∈ scRegs by decide)) q.center
  have hovr := hcenter.setReg (hr (show Reg.scOvr ∈ scRegs by decide)) (bitIf q.overrides.isSome 0)
  have hhtd := hovr.setReg (hr (show Reg.scPtHtd ∈ scRegs by decide))
    (q.overrides.getD noOverrides).timing.htd
  have hhsw := hhtd.setReg (hr (show Reg.scPtHsw ∈ scRegs by decide))
    (q.overrides.getD noOverrides).timing.hsw
  have hvtd := hhsw.setReg (hr (show Reg.scPtVtd ∈ scRegs by decide))
    (q.overrides.getD noOverrides).timing.vtd
  have hvsw := hvtd.setReg (hr (show Reg.scPtVsw ∈ scRegs by decide))
    (q.overrides.getD noOverrides).timing.vsw
  have hactH := hvsw.setReg (hr (show Reg.scActH ∈ scRegs by decide)) (q.overrides.getD noOverrides).actH
  exact hactH.setReg (hr (by decide)) _

/-! ### Step 1: the base address -/

theorem run_releaseOld (hc : .curfb c ∈ rs) (old new : Word) :
    Run c rs s (b + (0, 0, 0, 1, 0)) (releaseOld old new t) := by
  unfold releaseOld
  split_ifs
  · exact h.unpin hc old
  · exact h.widen le_self_add

theorem run_programBase (hc : .curfb c ∈ rs) (addr : Word) :
    Run c rs s (b + (2, 0, 0, 1, 0)) (programBase msc1 c addr t) := by
  have hoffset := h.write (ownWord_dr (existing_both c .fbOffset (by decide))) addr
  have hpitch := run_memWriteReg hoffset (existing_both c .fbPitchw (by decide)) .fbPitch
  exact (run_spend (run_spend (run_releaseOld hpitch hc _ _) rfl) rfl).setReg hc _

theorem run_pinAndProgram (hc : .curfb c ∈ rs) (hs : .status ∈ rs) (bytes : Nat) :
    Run c rs s (b + (2, 0, 0, 2, 0)) (pinAndProgram msc1 c bytes t).2 := by
  have hpin := h.pin hc (t.reg .fbHandle)
  simp only [pinAndProgram]
  cases (pinHandle (t.reg .fbHandle) t).1 with
  | fail =>
    exact (run_raise hpin hs _).widen
      (add_le_add_right (show ((0, 0, 0, 1, 0) : Budget) ≤ (2, 0, 0, 2, 0) by simp) b)
  | ok base tiling =>
    exact run_spend (x := (0, 0, 0, 1, 0)) (y := (2, 0, 0, 1, 0)) (run_programBase hpin hc _) rfl

theorem run_setbaseBody (hc : .curfb c ∈ rs) (hs : .status ∈ rs) (hp : .phase ∈ rs) :
    Run c rs s (b + (2, 0, 0, 2, 0)) (setbaseBody msc1 c t) := by
  have hstep := run_setStep h hp 1
  simp only [setbaseBody, setbaseRun]
  cases bytesOfFormat msc1 ((setStep 1 t).regNat .fbFormat) with
  | none => exact (run_raise hstep hs _).widen le_self_add
  | some bytes => exact run_pinAndProgram hstep hc hs bytes

/-! ### Step 2: the timing registers -/

/-- The secondary has a control word to write (44_timing_packer.md R187). -/
def ctlRmws : Ctrl → Nat
  | .primary => 0
  | .secondary => 1

theorem run_programCtl (hv : c = .secondary → t.reg .tpCtl &&& 0x00000100#32 = 0) :
    Run c rs s (b + (0, ctlRmws c, 0, 0, 0)) (programCtl msc1 c t) := by
  cases c with
  | primary => exact h
  | secondary => exact run_memRmwReg h (existing_both _ .ctl (by decide)) (hv rfl)

theorem run_programTiming : Run c rs s (b + (4, 0, 0, 0, 0)) (programTiming msc1 c t) := by
  have hhtd := run_memWriteReg h (existing_both c .hTotalDisp (by decide)) .tpHtd
  have hhsw := run_memWriteReg hhtd (existing_both c .hSyncStrtWid (by decide)) .tpHsw
  have hvtd := run_memWriteReg hhsw (existing_both c .vTotalDisp (by decide)) .tpVtd
  have hvsw := run_memWriteReg hvtd (existing_both c .vSyncStrtWid (by decide)) .tpVsw
  exact run_spend (run_spend (run_spend hvsw rfl) rfl) rfl

theorem run_timprogBody (hr : tpRegs ⊆ rs) (hp : .phase ∈ rs) :
    Run c rs s (b + (4, ctlRmws c, 0, 0, 0)) (timprogBody msc1 c t) := by
  have hpack : Run c rs s b (timpackBody msc1 c .std (setStep 2 t)) :=
    run_writeTiming (run_setStep h hp 2) hr _
  have hctl : (timpackBody msc1 c .std (setStep 2 t)).reg .tpCtl = ctlWord (setStep 2 t) c := by
    rw [timpackBody, writeTiming_tpCtl, packCtl_msc1]
  have hfold := run_programCtl hpack (by rintro rfl; rw [hctl]; exact ctlWord_auxCrtOn _)
  exact run_spend (run_programTiming hfold) (by simp)

/-! ### Step 3: the clock -/

theorem run_waitReads (more n : Nat) :
    Run c rs s (b + (0, 0, more + 1, 0, 0)) (waitReads msc1 c more n t).2 := by
  induction more generalizing n t b with
  | zero => exact run_pllRead h _
  | succ more ih =>
    have hread := run_pllRead h .pllRefDiv
    simp only [waitReads]
    split_ifs
    · exact run_spend (ih hread _) (by simp [Nat.add_comm])
    · exact hread.widen (add_le_add_right (by simp) b)

theorem run_waitPending (hw : .waitcnt ∈ rs) :
    Run c rs s (b + (0, 0, 10000, 0, 0)) (waitPending msc1 c t) :=
  run_setRegNat (run_waitReads h 9999 0) hw _

theorem run_writeDividers (ref fb frac pcode gain : Nat) :
    Run c rs s (b + (0, 3, 0, 0, 0)) (writeDividers msc1 c ref fb frac pcode gain t) := by
  have href := run_pllRmw h .pllRefDiv (putField_and_not_mask msc1.refDiv ref)
  have hfb := run_pllRmw href .pllFbPost (fbPostWord_disjoint fb frac pcode)
  have hgain := run_pllRmw hfb .pllCntl (putField_and_not_mask msc1.gain gain)
  exact run_spend (run_spend hgain rfl) rfl

theorem run_toggleAtomic : Run c rs s (b + (0, 2, 0, 0, 0)) (toggleAtomic msc1 c t) := by
  have hset := run_pllRmw h .pllRefDiv
    (show bitWord msc1.atomicUpdateW &&& ~~~bitWord msc1.atomicUpdateW = 0 by decide)
  exact run_spend (run_pllRmw hset .pllRefDiv BitVec.zero_and) rfl

theorem run_commitSolution (hw : .waitcnt ∈ rs) (hp : .phase ∈ rs) :
    Run c rs s (b + (0, 5, 20000, 0, 0)) (commitSolution msc1 c t) := by
  have hfirst := run_waitPending (run_setProtocolStep h hp 1) hw
  have hdividers := run_writeDividers (run_setProtocolStep hfirst hp 2) (t.regNat .solRef)
    (t.regNat .solFb) (t.regNat .solFrac) (t.regNat .solPcode) (t.regNat .solGain)
  have htoggle := run_toggleAtomic (run_setProtocolStep hdividers hp 3)
  have hsecond := run_waitPending (run_setProtocolStep htoggle hp 4) hw
  exact run_setProtocolStep (run_spend (run_spend (run_spend hsecond rfl) rfl) rfl) hp 0

theorem run_slowPath (hw : .waitcnt ∈ rs) (hp : .phase ∈ rs) :
    Run c rs s (b + (0, 5, 20000, 0, 1)) (slowPath msc1 c t) := by
  have hdelay := (run_setProtocolStep (run_commitSolution h hw hp) hp 5).delay
  exact run_setProtocolStep (run_spend hdelay rfl) hp 0

theorem run_fastPath (hs : .status ∈ rs) : Run c rs s (b + (0, 1, 0, 0, 0)) (fastPath msc1 c t) :=
  run_raise (run_pllRmw h .clkSel
    (show bitWord msc1.srcSel &&& ~~~bitWord msc1.srcSel = 0 by decide)) hs _

theorem run_programClock (hs : .status ∈ rs) (hw : .waitcnt ∈ rs) (hp : .phase ∈ rs) :
    Run c rs s (b + (0, 5, 20002, 0, 1)) (programClock msc1 c t) := by
  have hback := run_pllRead (run_pllRead h .pllRefDiv) .pllFbPost
  simp only [programClock]
  split_ifs
  · exact (run_spend (run_spend (run_fastPath hback hs) rfl) rfl).widen (add_le_add_right (by simp) b)
  · exact run_spend (run_spend (run_slowPath hback hw hp) rfl) rfl
  · exact (run_slowPath h hw hp).widen (add_le_add_right (by simp) b)

theorem run_pllprogBody (hr : solRegs ⊆ rs) (hs : .status ∈ rs) (hw : .waitcnt ∈ rs)
    (hp : .phase ∈ rs) : Run c rs s (b + (0, 5, 20002, 0, 1)) (pllprogBody msc1 c t) :=
  run_programClock (run_writeSolution (run_setStep h hp 3) hr _) hs hw hp

/-! ### Steps 4 and 5: the notification and the scaler -/

theorem run_bwnotifyBody (hp : .phase ∈ rs) :
    Run c rs s (b + (0, 0, 0, 1, 0)) (bwnotifyBody c t) := (run_setStep h hp 4).notify _

theorem run_recordPolicy (hc : .curpol c ∈ rs) : Run c rs s b (recordPolicy c t) := h.setReg hc _

/-! ### DPMSSET -/

theorem run_dpmssetBody (hr : .pwr c ∈ rs) (level : Level) :
    Run c rs s (b + (0, 1, 0, 1, 0)) (dpmssetBody msc1 c level t) := by
  have hctl : OwnWord c .dr (drBlock c) := drAddr_ctl c ▸ ownWord_dr (existing_both c .ctl (by decide))
  have hpower : Run c rs s (b + (0, 1, 0, 0, 0)) (writePower c level t) :=
    (h.rmw hctl (ctlValue_and_ctlKeep c level) _).setReg hr _
  rw [dpmssetBody_msc1, reloadIfOn]
  split_ifs
  · exact run_spend hpower.palette rfl
  · exact hpower.widen (add_le_add_right (by simp) b)

end bodies

section scaler
variable {rs : List Reg} {s t : State} {b : Budget} (h : Run .primary rs s b t)
include h

/-- The hardware's flags are read, and the result of SCALCOMP is written (43_scaler.md R159). -/
theorem run_scalerFromHardware (hr : scRegs ⊆ rs) :
    Run .primary rs s (b + (0, 0, 2, 0, 0)) (scalerFromHardware msc1 t) := by
  have hhorz := run_memRead h (r := .horzStretch) (by decide)
  have hvert := run_memRead hhorz (r := .vertStretch) (by decide)
  exact run_writeScaler (run_spend hvert rfl) hr _

/-- The words of a scaler result have no bit of the hardware's (43_scaler.md R160, R161). -/
theorem run_programStretch {q : ScalerResult} (hq : HoldsResult q t) (howned : LeavesOwned q) :
    Run .primary rs s (b + (0, 3, 0, 0, 0)) (programStretch msc1 t) := by
  obtain ⟨hhstr, hvstr, hcenter, -, -⟩ := hq
  obtain ⟨kh, kv, kc⟩ := howned
  rw [← hhstr] at kh
  rw [← hvstr] at kv
  rw [← hcenter] at kc
  have hhorz := run_memRmwReg h (r := .horzStretch) (by decide) kh
  have hvert := run_memRmwReg hhorz (r := .vertStretch) (x := .scVstr) (by decide)
    (by rw [memRmwReg_reg]; exact kv)
  have hctl := run_memRmwReg hvert (r := .centerCntl) (x := .scCenter) (keep := ~~~centerBits msc1)
    (by decide) (by rw [memRmwReg_reg, memRmwReg_reg]; exact kc)
  exact run_spend (run_spend hctl rfl) rfl

theorem run_programOverrides :
    Run .primary rs s (b + (6, 0, 0, 0, 0)) (programOverrides msc1 t) := by
  have hhtd := run_memWriteReg h (r := .ptHTotalDisp) (by decide) .scPtHtd
  have hhsw := run_memWriteReg hhtd (r := .ptHSyncStrtWid) (by decide) .scPtHsw
  have hvtd := run_memWriteReg hhsw (r := .ptVTotalDisp) (by decide) .scPtVtd
  have hvsw := run_memWriteReg hvtd (r := .ptVSyncStrtWid) (by decide) .scPtVsw
  have hactH := run_memWriteReg hvsw (r := .activeH) (by decide) .scActH
  have hactV := run_memWriteReg hactH (r := .activeV) (by decide) .scActV
  unfold programOverrides
  split_ifs
  · exact run_spend (run_spend (run_spend (run_spend (run_spend hactV rfl) rfl) rfl) rfl) rfl
  · exact h.widen le_self_add

theorem run_programScaler (hr : scRegs ⊆ rs) :
    Run .primary rs s (b + (6, 3, 2, 0, 0)) (programScaler msc1 t) := by
  obtain ⟨-, hholds, -, -⟩ := scalerFromHardware_does t
  have hstretch := run_programStretch (run_scalerFromHardware h hr) hholds (scaler_leavesOwned _ _ _ _ _ _)
  exact run_spend (run_spend (run_programOverrides hstretch) rfl) rfl

end scaler

/-- What SCALPROG spends: the secondary has no scaler (47_modeset.md R256). -/
def scalSpent : Ctrl → Budget
  | .primary => (6, 3, 2, 0, 0)
  | .secondary => 0

theorem run_scalprogBody {c : Ctrl} {rs : List Reg} {s t : State} {b : Budget} (h : Run c rs s b t)
    (hr : scRegs ⊆ rs) (hc : .curpol c ∈ rs) (hs : .status ∈ rs) (hp : .phase ∈ rs) :
    Run c rs s (b + scalSpent c) (scalprogBody msc1 c t) := by
  have hstep := run_setStep h hp 5
  cases c with
  | primary => exact run_recordPolicy (run_programScaler hstep hr) hc
  | secondary =>
    have hincapable : msc1.scalingCapable .secondary ≠ true := by decide
    simp only [scalprogBody, if_neg hincapable]
    split_ifs
    · exact run_recordPolicy hstep hc
    · exact run_raise hstep hs _

/-- A mode set that loses its pin ends with step 1 (47_modeset.md R239). -/
theorem modesetBody_of_pinFailed {k : Config} {c : Ctrl} {s : State}
    (h : (setbaseRun k c s).1 = .pinFailed) : modesetBody k c s = setbaseBody k c s := by
  unfold modesetBody setbaseBody
  generalize setbaseRun k c s = run at h ⊢
  obtain ⟨ending, t⟩ := run
  cases h
  rfl

theorem run_modesetBody {c : Ctrl} {rs : List Reg} {s t : State} {b : Budget} (h : Run c rs s b t)
    (hr : tpRegs ++ solRegs ++ scRegs ⊆ rs) (hfb : .curfb c ∈ rs) (hpol : .curpol c ∈ rs)
    (hs : .status ∈ rs) (hw : .waitcnt ∈ rs) (hp : .phase ∈ rs) :
    Run c rs s (b + (2, 0, 0, 2, 0) + (4, ctlRmws c, 0, 0, 0) + (0, 5, 20002, 0, 1) + (0, 0, 0, 1, 0) +
      scalSpent c) (modesetBody msc1 c t) := by
  obtain ⟨hrest, hsc⟩ := List.append_subset.mp hr
  obtain ⟨htp, hsol⟩ := List.append_subset.mp hrest
  have hbase := run_setbaseBody h hfb hs hp
  have htiming := run_timprogBody hbase htp hp
  have hclock := run_pllprogBody htiming hsol hs hw hp
  have hall := run_scalprogBody (run_bwnotifyBody hclock hp) hsc hpol hs hp
  by_cases hpin : (setbaseRun msc1 c t).1 = .pinFailed
  · rw [modesetBody_of_pinFailed hpin]
    exact (((hbase.widen le_self_add).widen le_self_add).widen le_self_add).widen le_self_add
  · rw [modesetBody_of_ne_pinFailed hpin]
    exact hall

/-! ### Every command -/

/-- The core registers that a command writes besides STATUS and PHASE. -/
def ownRegs : Instr → List Reg
  | .pllsolve _ => solRegs
  | .gaincls => [.gOut]
  | .scalcomp => scRegs
  | .timpack _ _ => tpRegs
  | .pllcommit _ => [.waitcnt]
  | .dpmsset c _ => [.pwr c]
  | .modeset c => [.curfb c, .curpol c, .waitcnt] ++ (tpRegs ++ solRegs ++ scRegs)
  | .setbase c => [.curfb c]
  | .timprog _ => tpRegs
  | .pllprog _ => .waitcnt :: solRegs
  | .bwnotify _ => []
  | .scalprog c => .curpol c :: scRegs

/-- The core registers that a command writes. -/
def commandRegs (i : Instr) : List Reg := [.status, .phase] ++ ownRegs i

/-- The controller whose registers a command uses; GAINCLS and SCALCOMP use none's. -/
def runCtrl (i : Instr) : Ctrl := (ctrlOf i).getD .primary

/-- The worst case of every command (70_reset_and_hazards.md R325). -/
def commandBudget : Budget := (12, 8, 20004, 3, 1)

theorem ownRegs_subset (i : Instr) : ownRegs i ⊆ commandRegs i := List.subset_append_right _ _

theorem status_mem_commandRegs (i : Instr) : .status ∈ commandRegs i := List.mem_cons_self

theorem phase_mem_commandRegs (i : Instr) : .phase ∈ commandRegs i :=
  List.mem_cons_of_mem _ List.mem_cons_self

/-- A frame around a run is a run. -/
theorem run_frame {c : Ctrl} {rs : List Reg} {s : State} {b : Budget} {body : State → State}
    (hs : .status ∈ rs) (hp : .phase ∈ rs) (h : Run c rs s b (body (prologue s))) :
    Run c rs s b (frame body s) := (h.setReg hp _).setReg hs _

/-- The body of every command is a run within the worst case, from the prologue on. -/
theorem run_commandBody (i : Instr) (s : State) :
    Run (runCtrl i) (commandRegs i) s commandBudget (commandBody i (prologue s)) := by
  have h : Run (runCtrl i) (commandRegs i) s 0 (prologue s) :=
    Run.start.setReg (status_mem_commandRegs i) _
  have hown := ownRegs_subset i
  have hs := status_mem_commandRegs i
  have hp := phase_mem_commandRegs i
  cases i with
  | pllsolve c => exact (run_writeSolution h hown _).widen (by simp [commandBudget])
  | gaincls => exact (run_setRegNat h (hown (List.mem_singleton_self _)) _).widen (by simp [commandBudget])
  | scalcomp => exact (run_writeScaler h hown _).widen (by simp [commandBudget])
  | timpack c v => exact (run_writeTiming h hown _).widen (by simp [commandBudget])
  | pllcommit c =>
    exact (run_commitSolution h (hown (List.mem_singleton_self _)) hp).widen (by simp [commandBudget])
  | dpmsset c level =>
    exact (run_dpmssetBody h (hown (List.mem_singleton_self _)) level).widen (by simp [commandBudget])
  | modeset c =>
    have hrest := (List.append_subset.mp hown).2
    have hall := run_modesetBody (c := c) h hrest (hown (by simp [ownRegs])) (hown (by simp [ownRegs])) hs
      (hown (by simp [ownRegs])) hp
    exact hall.widen (by cases c <;> simp [commandBudget, ctlRmws, scalSpent])
  | setbase c =>
    exact (run_setbaseBody h (hown (List.mem_singleton_self _)) hs hp).widen (by simp [commandBudget])
  | timprog c =>
    exact (run_timprogBody (c := c) h hown hp).widen (by cases c <;> simp [commandBudget, ctlRmws])
  | pllprog c =>
    exact (run_pllprogBody h (List.Subset.trans (List.subset_cons_self _ _) hown) hs
      (hown List.mem_cons_self) hp).widen (by simp [commandBudget])
  | bwnotify c => exact (run_bwnotifyBody h hp).widen (by simp [commandBudget])
  | scalprog c =>
    exact (run_scalprogBody (c := c) h (List.Subset.trans (List.subset_cons_self _ _) hown)
      (hown List.mem_cons_self) hs hp).widen (by cases c <;> simp [commandBudget, scalSpent])

/-- Every command is a run within the worst case. -/
theorem run_command (i : Instr) (s : State) :
    Run (runCtrl i) (commandRegs i) s commandBudget (frame (commandBody i) s) :=
  run_frame (status_mem_commandRegs i) (phase_mem_commandRegs i) (run_commandBody i s)

/-- What a command answers is such a run. -/
theorem run_of_exec {i : Instr} {s t : State} (h : exec i s = .next t) :
    Run (runCtrl i) (commandRegs i) s commandBudget t := eq_frame_of_exec h ▸ run_command i s

end Sys2Proof.Proofs.Commands
end
section
/-! The rules about every command (10_state.md R22, R33, 47_modeset.md R259, 70_reset_and_hazards.md R325), read
off the run that each command is. -/

namespace Sys2Proof.Proofs.EveryCommand

open Sys2Proof Sys2Proof.Machine Sys2Proof.Safety Sys2Proof.Laws Sys2Proof.Proofs.Stepping
  Sys2Proof.Proofs.Operations Sys2Proof.Proofs.Commands

/-- An index of the register file that the core writes lies outside the operands (10_state.md R21). -/
theorem commandRegs_index {i : Instr} {r : Reg} (hr : r ∈ commandRegs i) :
    37 ≤ (Reg.index r).val ∧ ((Reg.index r).val < 40 ∨ 44 < (Reg.index r).val) := by
  have hall : ∀ q ∈ commandRegs i,
      37 ≤ (Reg.index q).val ∧ ((Reg.index q).val < 40 ∨ 44 < (Reg.index q).val) := by
    cases i with
    | gaincls => decide
    | scalcomp => decide
    | timpack c v => cases c <;> cases v <;> decide
    | dpmsset c level => cases c <;> cases level <;> decide
    | pllsolve c | pllcommit c | modeset c | setbase c | timprog c | pllprog c | bwnotify c | scalprog c =>
      cases c <;> decide
  exact hall r hr

/-- Settles O50: the registers that a command writes are no operands. -/
theorem operandsNeverWritten : Obligations.OperandsNeverWritten := by
  intro i s
  refine ⟨_, exec_eq_frame i s, fun r hr => run_reg (run_command i s) fun hmem => ?_⟩
  obtain ⟨hlow, hbanks⟩ := commandRegs_index hmem
  omega

/-! ### Who writes the per-controller state -/

theorem pwr_mem_commandRegs {i : Instr} {d : Ctrl} (h : .pwr d ∈ commandRegs i) :
    ∃ l, i = .dpmsset d l := by
  cases i <;> simp [commandRegs, ownRegs, solRegs, tpRegs, scRegs, ovrRegs] at h ⊢
  exact h.symm

theorem curfb_mem_commandRegs {i : Instr} {d : Ctrl} (h : .curfb d ∈ commandRegs i) :
    i = .setbase d ∨ i = .modeset d := by
  cases i <;> simp [commandRegs, ownRegs, solRegs, tpRegs, scRegs, ovrRegs] at h ⊢
  all_goals exact h.symm

theorem curpol_mem_commandRegs {i : Instr} {d : Ctrl} (h : .curpol d ∈ commandRegs i) :
    i = .scalprog d ∨ i = .modeset d := by
  cases i <;> simp [commandRegs, ownRegs, solRegs, tpRegs, scRegs, ovrRegs] at h ⊢
  all_goals exact h.symm

/-- A register that a command changes is one that it writes. -/
theorem mem_commandRegs_of_ne {i : Instr} {s t : State} {r : Reg} (h : exec i s = .next t)
    (hne : t.reg r ≠ s.reg r) : r ∈ commandRegs i := by
  by_contra hmem
  exact hne (run_reg (run_of_exec h) hmem)

/-- Settles O51: a register that a command changes is one that it writes. -/
theorem perControllerStateOwners : Obligations.PerControllerStateOwners := fun _ _ _ _ h =>
  ⟨fun hne => pwr_mem_commandRegs (mem_commandRegs_of_ne h hne),
    fun hne => curfb_mem_commandRegs (mem_commandRegs_of_ne h hne),
    fun hne => curpol_mem_commandRegs (mem_commandRegs_of_ne h hne)⟩

/-! ### The other controller -/

theorem other_ne (c : Ctrl) : other c ≠ c := by cases c <;> exact fun h => nomatch h

/-- The blocks and banks of the two controllers are apart (20_memory.md R71, R72). -/
theorem not_inBlock_of_other {c : Ctrl} {sp : Space} {a : Nat} (h : inBlock (other c) sp a) :
    ¬ inBlock c sp a := by
  cases c <;> cases sp <;> simp only [inBlock, other, drBlock, prBlock] at h ⊢ <;> omega

/-- A command of one controller writes nothing of the other's state. -/
theorem otherRegs_not_mem_commandRegs {i : Instr} {c : Ctrl} (hi : ctrlOf i = some c) {r : Reg}
    (hr : r ∈ [Reg.pwr (other c), .curpol (other c), .curfb (other c)]) : r ∉ commandRegs i := by
  have hown : ∀ {j : Instr}, ctrlOf j = some (other c) → i ≠ j := by
    rintro j hj rfl
    exact other_ne c (Option.some.inj (hj.symm.trans hi))
  intro hmem
  simp only [List.mem_cons, List.not_mem_nil, or_false] at hr
  rcases hr with rfl | rfl | rfl
  · obtain ⟨l, heq⟩ := pwr_mem_commandRegs hmem
    exact hown rfl heq
  · rcases curpol_mem_commandRegs hmem with heq | heq
    · exact hown rfl heq
    · exact hown rfl heq
  · rcases curfb_mem_commandRegs hmem with heq | heq
    · exact hown rfl heq
    · exact hown rfl heq

/-- Events of one controller hold no palette reload of the other. -/
theorem count_palette_other {c : Ctrl} {es : List Event} (h : ∀ e ∈ es, eventOf c e) :
    es.count (.palette (other c)) = 0 :=
  List.count_eq_zero.mpr fun hmem => other_ne c (h _ hmem)

/-- Settles O52: the command's run stays in its own controller's block, bank and state. -/
theorem otherControllerUntouched : Obligations.OtherControllerUntouched := by
  intro i c s t hi h
  have hctrl : runCtrl i = c := by rw [runCtrl, hi]; rfl
  have hrun := run_of_exec h
  rw [hctrl] at hrun
  obtain ⟨es, htrace, -, hall⟩ := run_adds hrun
  have hof : ∀ e ∈ es, eventOf c e := fun e he => (hall e he).2
  refine ⟨fun sp a ha => run_held hrun (not_inBlock_of_other ha),
    fun r hr => run_reg hrun (otherRegs_not_mem_commandRegs hi hr), ?_, es, htrace, hof⟩
  have hcounted := run_paletteCounted hrun (other c)
  rw [htrace, List.count_append, count_palette_other hof] at hcounted
  omega

/-! ### The worst case of a command -/

/-- The epilogue clears BUSY and sets DONE (30_encoding.md R91). -/
theorem statusAtEnd_bits (w : Word) :
    testBit (statusAtEnd w) 0 = false ∧ testBit (statusAtEnd w) 1 = true := by
  simp only [testBit, statusAtEnd, BitVec.getLsbD_or, BitVec.getLsbD_and]
  exact ⟨by simp [bitWord, statusBusy, statusDone], by simp [bitWord, statusBusy, statusDone]⟩

/-- Settles O53: the command's run spends the budget at most, and the frame ends it. -/
theorem commandsEndWithinBound : Obligations.CommandsEndWithinBound := by
  intro i s
  obtain ⟨es, htrace, ⟨hwrites, hrmws, hreads, hcalls, hdelays⟩, -⟩ := run_adds (run_command i s)
  simp only [spent, commandBudget] at hwrites hrmws hreads hcalls hdelays
  have hlength := length_eq_sum_spent es
  obtain ⟨hidle, hdone⟩ := statusAtEnd_bits ((commandBody i (prologue s)).reg .status)
  refine ⟨_, es, exec_eq_frame i s, htrace, hwrites, hrmws, hreads, hcalls, hdelays, by omega, ?_, ?_, ?_⟩
  · rwa [frame_reg, if_pos rfl]
  · rwa [frame_reg, if_pos rfl]
  · rw [frame_reg, if_neg (by decide), if_pos rfl]

end Sys2Proof.Proofs.EveryCommand
end
section
/-! The STATUS that each command leaves (10_state.md R38, 47_modeset.md R257, 60_exceptions.md R279): DONE for
most, and the flags of the five steps together for a mode set. -/

namespace Sys2Proof.Proofs.Outcomes

open Sys2Proof Sys2Proof.Machine Sys2Proof.Safety Sys2Proof.Laws Sys2Proof.Proofs.Solver
  Sys2Proof.Proofs.Gain Sys2Proof.Proofs.Scaler Sys2Proof.Proofs.Timing Sys2Proof.Proofs.Atomic
  Sys2Proof.Proofs.Dpms Sys2Proof.Proofs.Setbase Sys2Proof.Proofs.Clock Sys2Proof.Proofs.Stepping
  Sys2Proof.Proofs.TimingProgram Sys2Proof.Proofs.BaseAddress Sys2Proof.Proofs.Notify
  Sys2Proof.Proofs.Sequence Sys2Proof.Proofs.Operations Sys2Proof.Proofs.Commands
  Sys2Proof.Proofs.EveryCommand

/-- A command answers one state. -/
theorem exec_unique {i : Instr} {s t u : State} (ht : exec i s = .next t) (hu : exec i s = .next u) :
    t = u := Host.Outcome.next.inj (ht.symm.trans hu)

/-- A command leaves PHASE at 0 (30_encoding.md R91). -/
theorem phase_of_exec {i : Instr} {s t : State} (h : exec i s = .next t) : t.reg .phase = 0 := by
  rw [eq_frame_of_exec h, frame_reg, if_neg (by decide), if_pos rfl]

/-! ### The five steps -/

/-- A format that is supported has its bytes of a pixel. -/
theorem exists_bytes {code : Nat} (h : code ∈ [8, 15, 16, 24, 32]) :
    ∃ bytes, (code, bytes) ∈ [(8, 1), (15, 2), (16, 2), (24, 3), (32, 4)] := by
  have hall : ∀ n ∈ [8, 15, 16, 24, 32],
      ∃ p ∈ [(8, 1), (15, 2), (16, 2), (24, 3), (32, 4)], p.1 = n := by decide
  obtain ⟨⟨n, bytes⟩, hmem, rfl⟩ := hall code h
  exact ⟨bytes, hmem⟩

/-- The STATUS that SETBASE leaves, when its pin does not fail (47_modeset.md R238). -/
def baseStatus (s : State) : Word :=
  if s.regNat .fbFormat ∈ [8, 15, 16, 24, 32] then 0x00000002#32 else 0x00000012#32

theorem setbase_status {c : Ctrl} {s t : State} (h : exec (.setbase c) s = .next t)
    (hpin : s.regNat .fbFormat ∈ [8, 15, 16, 24, 32] → s.nextPin ≠ .fail) :
    t.reg .status = baseStatus s := by
  unfold baseStatus
  split_ifs with hformat
  · cases hanswer : s.nextPin with
    | fail => exact absurd hanswer (hpin hformat)
    | ok base tiling =>
      obtain ⟨bytes, hbytes⟩ := exists_bytes hformat
      obtain ⟨u, hexec, -, -, -, -, -, -, -, ⟨hstatus, -⟩, -⟩ :=
        setbaseProgramsBase c s bytes base tiling hbytes hanswer
      exact exec_unique h hexec ▸ hstatus
  · obtain ⟨u, hexec, ⟨hstatus, -⟩, -⟩ := setbaseUnsupportedFormat c s hformat
    exact exec_unique h hexec ▸ hstatus

theorem timprog_status {c : Ctrl} {s t : State} (h : exec (.timprog c) s = .next t) :
    t.reg .status = 0x00000002#32 := by
  cases c with
  | primary =>
    obtain ⟨-, -, -, ⟨hstatus, -⟩, -⟩ :=
      timprog_does (c := .primary) (s := s) (u := timed .primary s) rfl (ran_refl _)
    exact eq_frame_of_exec h ▸ hstatus
  | secondary =>
    obtain ⟨-, -, -, ⟨hstatus, -⟩, -⟩ := timprog_does (c := .secondary) rfl (programCtl_secondary s).1
    exact eq_frame_of_exec h ▸ hstatus

/-- FAST tells the fast path from the slow one (47_modeset.md R248, R249). -/
theorem pllprog_status {c : Ctrl} {s t : State} (h : exec (.pllprog c) s = .next t) :
    t.reg .status ∈ [0x00000002#32, 0x00000102#32] := by
  have hslow : ∀ {u : State}, Ended 0x00000002#32 u → u.reg .status ∈ [0x00000002#32, 0x00000102#32] :=
    fun hended => hended.1 ▸ List.mem_cons_self
  rw [eq_frame_of_exec h]
  cases hcaps : testBit (s.reg .caps) 0 with
  | false => exact hslow (pllprog_insensitive_ended hcaps)
  | true =>
    have hbody := pllprogBody_sensitive (c := c) hcaps
    split_ifs at hbody
    · obtain ⟨-, -, -, -, hstatus, -⟩ := pllprog_fast hbody
      exact List.mem_pair.mpr (.inr hstatus)
    · obtain ⟨-, -, -, -, -, -, hended⟩ := pllprog_slow hbody
      exact hslow hended

theorem bwnotify_status {c : Ctrl} {s t : State} (h : exec (.bwnotify c) s = .next t) :
    t.reg .status = 0x00000002#32 := by
  obtain ⟨u, hexec, -, ⟨hstatus, -⟩, -⟩ := bwnotifyHandsOverClock c s
  exact exec_unique h hexec ▸ hstatus

/-- The STATUS that SCALPROG leaves (47_modeset.md R255, R256). -/
def scalStatus (c : Ctrl) (s : State) : Word :=
  if c = .secondary ∧ policyNum s ≠ 0 then 0x00000022#32 else 0x00000002#32

theorem scalprog_status {c : Ctrl} {s t : State} (h : exec (.scalprog c) s = .next t) :
    t.reg .status = scalStatus c s := by
  cases c with
  | primary =>
    obtain ⟨u, hexec, -, -, -, ⟨hstatus, -⟩, -⟩ := exec_scalprog_primary s
    rw [scalStatus, if_neg (by simp)]
    exact exec_unique h hexec ▸ hstatus
  | secondary =>
    obtain ⟨hoff, herror⟩ := scalprogSecondaryTestsPolicy s
    by_cases hpolicy : policyNum s = 0
    · obtain ⟨u, hexec, -, ⟨hstatus, -⟩, -⟩ := hoff hpolicy
      rw [scalStatus, if_neg (fun h => h.2 hpolicy)]
      exact exec_unique h hexec ▸ hstatus
    · obtain ⟨u, hexec, ⟨hstatus, -⟩, -⟩ := herror hpolicy
      rw [scalStatus, if_pos ⟨rfl, hpolicy⟩]
      exact exec_unique h hexec ▸ hstatus

/-! ### The mode set -/

/-- A command leaves the policy operand alone. -/
theorem policyNum_of_exec {i : Instr} {s t : State} (h : exec i s = .next t) :
    policyNum t = policyNum s := by
  have hpolicy : Reg.sPolicy ∉ commandRegs i := fun hmem => absurd (commandRegs_index hmem).1 (by decide)
  rw [policyNum, run_reg (run_of_exec h) hpolicy, policyNum]

/-- A mode set that does not lose its pin has the flags of its steps. -/
theorem modeset_status {c : Ctrl} {s t : State} (h : exec (.modeset c) s = .next t)
    (hpin : s.regNat .fbFormat ∈ [8, 15, 16, 24, 32] → s.nextPin ≠ .fail) :
    ∃ clock ∈ [0x00000002#32, 0x00000102#32],
      t.reg .status =
        baseStatus s ||| 0x00000002#32 ||| clock ||| 0x00000002#32 ||| scalStatus c s := by
  obtain ⟨s1, s2, s3, s4, s5, h1, h2, h3, h4, h5, hall⟩ := modesetIsFiveSteps c s hpin
  have hpolicy : scalStatus c s4 = scalStatus c s := by
    rw [scalStatus, policyNum_of_exec h4, policyNum_of_exec h3, policyNum_of_exec h2,
      policyNum_of_exec h1, scalStatus]
  refine ⟨s3.reg .status, pllprog_status h3, ?_⟩
  rw [exec_unique h hall, reg_setReg_same, setbase_status h1 hpin, timprog_status h2, bwnotify_status h4,
    scalprog_status h5, hpolicy]

/-- A mode set that loses its pin has E_ALLOC alone (60_exceptions.md R275). -/
theorem modeset_status_pinFailed {c : Ctrl} {s t : State} (h : exec (.modeset c) s = .next t)
    (hformat : s.regNat .fbFormat ∈ [8, 15, 16, 24, 32]) (hpin : s.nextPin = .fail) :
    t.reg .status = 0x00000042#32 := by
  obtain ⟨u, hexec, ⟨hstatus, -⟩, -⟩ := pinFailureAbortsUntouched c s hformat hpin (.modeset c) (by simp)
  exact exec_unique h hexec ▸ hstatus

theorem baseStatus_mem (s : State) : baseStatus s ∈ [0x00000002#32, 0x00000012#32] := by
  unfold baseStatus
  split_ifs <;> decide

theorem scalStatus_mem (c : Ctrl) (s : State) : scalStatus c s ∈ [0x00000002#32, 0x00000022#32] := by
  unfold scalStatus
  split_ifs <;> decide

/-- A format error or none, a fast clock or none, a scaling error or none: each sets its own bit. -/
theorem fiveSteps_bits : ∀ base ∈ [0x00000002#32, 0x00000012#32],
    ∀ clock ∈ [0x00000002#32, 0x00000102#32], ∀ scal ∈ [0x00000002#32, 0x00000022#32],
      let w := base ||| 0x00000002#32 ||| clock ||| 0x00000002#32 ||| scal
      w ∈ legalStatus ∧ (testBit w 4 = true ↔ base = 0x00000012#32) ∧
        (testBit w 5 = true ↔ scal = 0x00000022#32) ∧ testBit w 6 = false ∧ testBit w 7 = false := by
  simp [legalStatus, testBit]

theorem baseStatus_eq_iff (s : State) :
    baseStatus s = 0x00000012#32 ↔ s.regNat .fbFormat ∉ [8, 15, 16, 24, 32] := by
  unfold baseStatus
  split_ifs with h
  · exact iff_of_false (by decide) (not_not_intro h)
  · exact iff_of_true rfl h

theorem scalStatus_eq_iff (c : Ctrl) (s : State) :
    scalStatus c s = 0x00000022#32 ↔ c = .secondary ∧ policyNum s ≠ 0 := by
  unfold scalStatus
  split_ifs with h
  · exact iff_of_true rfl h
  · exact iff_of_false (by decide) h

/-- Settles O49: a lost pin leaves E_ALLOC alone; otherwise the flags are those of the five steps. -/
theorem modesetOutcomes : Obligations.ModesetOutcomes := by
  intro c s
  have hexec := exec_eq_frame (.modeset c) s
  refine ⟨_, hexec, ?_⟩
  generalize frame (commandBody (.modeset c)) s = t at hexec
  by_cases hpin : s.regNat .fbFormat ∈ [8, 15, 16, 24, 32] ∧ s.nextPin = .fail
  · obtain ⟨hformat, hfail⟩ := hpin
    rw [modeset_status_pinFailed hexec hformat hfail]
    exact ⟨iff_of_false (by decide) (not_not_intro hformat), iff_of_true (by decide) ⟨hformat, hfail⟩,
      iff_of_false (by decide) (fun h => absurd h.1 (by decide)), by decide, fun _ => by decide⟩
  · obtain ⟨clock, hclock, hstatus⟩ := modeset_status hexec (fun hformat hfail => hpin ⟨hformat, hfail⟩)
    obtain ⟨-, hformat, hscaling, halloc, hillegal⟩ :=
      fiveSteps_bits _ (baseStatus_mem s) clock hclock _ (scalStatus_mem c s)
    rw [← hstatus] at hformat hscaling halloc hillegal
    refine ⟨hformat.trans (baseStatus_eq_iff s), iff_of_false (by rw [halloc]; decide) hpin, ?_, hillegal,
      fun h => absurd (halloc.symm.trans h) (by decide)⟩
    rw [hscaling, scalStatus_eq_iff, and_iff_right halloc]

/-! ### Every command -/

/-- Every command leaves a legal STATUS. -/
theorem status_mem_legalStatus {i : Instr} {s t : State} (h : exec i s = .next t) :
    t.reg .status ∈ legalStatus := by
  have hdone : ∀ {u : State}, exec i s = .next u → u.reg .status = 0x00000002#32 →
      t.reg .status ∈ legalStatus := by
    intro u hu hstatus
    rw [exec_unique h hu, hstatus]
    simp [legalStatus]
  have hlost : s.regNat .fbFormat ∈ [8, 15, 16, 24, 32] → s.nextPin = .fail →
      ∀ c, i ∈ [.setbase c, .modeset c] → t.reg .status ∈ legalStatus := by
    intro hformat hfail c hi
    obtain ⟨u, hexec, ⟨hstatus, -⟩, -⟩ := pinFailureAbortsUntouched c s hformat hfail i hi
    rw [exec_unique h hexec, hstatus]
    simp [legalStatus]
  cases i with
  | pllsolve c =>
    obtain ⟨u, hu, -, ⟨hstatus, -⟩, -⟩ := exec_pllsolve c s
    exact hdone hu hstatus
  | gaincls =>
    obtain ⟨u, hu, -, ⟨hstatus, -⟩, -⟩ := exec_gaincls s
    exact hdone hu hstatus
  | scalcomp =>
    obtain ⟨u, hu, -, ⟨hstatus, -⟩, -⟩ := exec_scalcomp s
    exact hdone hu hstatus
  | timpack c v =>
    obtain ⟨u, hu, -, -, ⟨hstatus, -⟩, -⟩ := exec_timpack c v s
    exact hdone hu hstatus
  | pllcommit c =>
    obtain ⟨u, -, -, -, hu, -, -, ⟨hstatus, -⟩, -⟩ := exec_pllcommit c s
    exact hdone hu hstatus
  | dpmsset c level =>
    obtain ⟨u, -, hu, -, -, -, -, -, -, -, -, ⟨hstatus, -⟩, -⟩ := dpmssetWritesCtl c level s
    exact hdone hu hstatus
  | setbase c =>
    by_cases hpin : s.regNat .fbFormat ∈ [8, 15, 16, 24, 32] ∧ s.nextPin = .fail
    · exact hlost hpin.1 hpin.2 c (by simp)
    · have hall : ∀ w ∈ [0x00000002#32, 0x00000012#32], w ∈ legalStatus := by simp [legalStatus]
      rw [setbase_status h (fun hformat hfail => hpin ⟨hformat, hfail⟩)]
      exact hall _ (baseStatus_mem s)
  | modeset c =>
    by_cases hpin : s.regNat .fbFormat ∈ [8, 15, 16, 24, 32] ∧ s.nextPin = .fail
    · exact hlost hpin.1 hpin.2 c (by simp)
    · obtain ⟨clock, hclock, hstatus⟩ := modeset_status h (fun hformat hfail => hpin ⟨hformat, hfail⟩)
      obtain ⟨hlegal, -⟩ := fiveSteps_bits _ (baseStatus_mem s) clock hclock _ (scalStatus_mem c s)
      exact hstatus ▸ hlegal
  | timprog c => exact hdone h (timprog_status h)
  | pllprog c =>
    have hall : ∀ w ∈ [0x00000002#32, 0x00000102#32], w ∈ legalStatus := by simp [legalStatus]
    exact hall _ (pllprog_status h)
  | bwnotify c => exact hdone h (bwnotify_status h)
  | scalprog c =>
    have hall : ∀ w ∈ [0x00000002#32, 0x00000022#32], w ∈ legalStatus := by simp [legalStatus]
    rw [scalprog_status h]
    exact hall _ (scalStatus_mem c s)

end Sys2Proof.Proofs.Outcomes
end
section
/-! What every step keeps (10_state.md sections 2 to 6): a host operation is an access of the register file, a
command, an illegal command or a reset, so a rule kept by these is kept by a step. Here the storage, the
trace and STATUS. -/

namespace Sys2Proof.Proofs.StepKeeps

open Sys2Proof Sys2Proof.Machine Sys2Proof.Safety Sys2Proof.Laws Sys2Proof.Proofs.Encoding
  Sys2Proof.Proofs.Reset Sys2Proof.Proofs.Stepping Sys2Proof.Proofs.BaseAddress Sys2Proof.Proofs.Setbase
  Sys2Proof.Proofs.Sequence Sys2Proof.Proofs.Operations Sys2Proof.Proofs.Commands
  Sys2Proof.Proofs.EveryCommand Sys2Proof.Proofs.Outcomes

/-! ### Host operations -/

/-- What a rule has to survive for every step to keep it. -/
structure Kept (P : State → Prop) : Prop where
  pop : ∀ {s : State} (rest : List HostOp), P s → P { s with host := rest }
  read : ∀ {s : State} (i : Fin 128), P s → P (hostRead i s)
  write : ∀ {s : State} (i : Fin 128) (v : Word), P s → P (hostWrite i v s)
  command : ∀ {i : Instr} {s t : State}, exec i s = .next t → P s → P t
  illegal : ∀ {s : State}, P s → P (illegalCommand s)
  reset : ∀ {s : State}, P s → P (coreReset s)

theorem hostAccess_keeps {P : State → Prop} {access : State → State} {s t : State}
    (haccess : P (access s)) (h : hostAccess access s = .next t) : P t := by
  unfold hostAccess at h
  split_ifs at h
  cases h
  exact haccess

theorem issueWord_keeps {P : State → Prop} (hP : Kept P) {w : Word} {s t : State} (hs : P s)
    (h : issueWord exec w s = .next t) : P t := by
  cases hbusy : s.busy with
  | true => rw [issueWord_busy w hbusy] at h; nomatch h
  | false =>
    cases hw : decode w with
    | instr i =>
      rw [issueWord_instr hbusy hw] at h
      exact hP.command h hs
    | illegal why =>
      rw [issueWord_illegal hbusy hw] at h
      cases h
      exact hP.illegal hs

/-- A rule that every host operation keeps is kept by every step. -/
theorem step_keeps {P : State → Prop} (hP : Kept P) (s t : State) (hs : P s)
    (h : step s = .next t) : P t := by
  cases hhost : s.host with
  | nil =>
    rw [step_of_host_nil hhost] at h
    cases h
    exact hs
  | cons op rest =>
    rw [step_of_host hhost] at h
    have hpop := hP.pop rest hs
    cases op with
    | read i => exact hostAccess_keeps (hP.read i hpop) h
    | write i v => exact hostAccess_keeps (hP.write i v hpop) h
    | issue w => exact issueWord_keeps hP hpop h
    | reset =>
      cases h
      exact hP.reset hpop

/-- The illegal command is a run that writes STATUS and PHASE alone (30_encoding.md R98). -/
theorem run_illegalCommand (s : State) :
    Run .primary [.status, .phase] s 0 (illegalCommand s) := by
  have hprologue : Run .primary [.status, .phase] s 0 (prologue s) := Run.start.setReg (by decide) _
  exact run_frame (by decide) (by decide) (run_raise hprologue (by decide) statusEIllegal)

/-- The host cannot write a register outside the operands (10_state.md R22). -/
theorem hostWrite_reg {r : Reg} (hr : hostWritable (Reg.index r).val = false) (i : Fin 128) (v : Word)
    (s : State) : (hostWrite i v s).reg r = s.reg r := by
  rw [← readIndex_index, hostWrite_readIndex, if_neg (by simp [hr]), readIndex_index]

/-! ### The storage -/

/-- Settles O13: a run stores at addresses that exist, and no other host operation touches the storage. -/
theorem stepKeepsStorageLegal : Obligations.StepKeepsStorageLegal :=
  step_keeps {
    pop := fun _ hs => storageLegal_of_eq hs rfl rfl rfl
    read := fun _ hs => storageLegal_of_eq hs rfl rfl rfl
    write := fun i v hs => by
      rw [hostWrite_does]
      exact storageLegal_of_eq hs rfl rfl rfl
    command := fun h hs => run_storageLegal (run_of_exec h) hs
    illegal := fun hs => run_storageLegal (run_illegalCommand _) hs
    reset := fun hs => storageLegal_of_eq hs rfl rfl rfl }

/-! ### The trace -/

theorem traceLegal_of_eq {s t : State} (hs : traceLegal s) (htrace : t.trace = s.trace)
    (hpri : t.palettePri = s.palettePri) (hsec : t.paletteSec = s.paletteSec) : traceLegal t := by
  unfold traceLegal at *
  rwa [htrace, hpri, hsec]

/-- A run adds legal events, and its palette counts go with them. -/
theorem run_traceLegal {c : Ctrl} {rs : List Reg} {s t : State} {b : Budget} (h : Run c rs s b t)
    (hs : traceLegal s) : traceLegal t := by
  obtain ⟨hevents, hpri, hsec⟩ := hs
  obtain ⟨es, htrace, -, hall⟩ := run_adds h
  have hcounted := run_paletteCounted h
  have hcountedPri : t.palettePri + _ = s.palettePri + _ := hcounted .primary
  have hcountedSec : t.paletteSec + _ = s.paletteSec + _ := hcounted .secondary
  refine ⟨fun e he => ?_, by omega, by omega⟩
  rw [htrace, List.mem_append] at he
  rcases he with he | he
  · exact hevents e he
  · exact (hall e he).1

theorem traceLegal_of_empty {t : State} (htrace : t.trace = []) (hpri : t.palettePri = 0)
    (hsec : t.paletteSec = 0) : traceLegal t := by
  unfold traceLegal
  rw [htrace, hpri, hsec]
  exact ⟨List.forall_mem_nil _, rfl, rfl⟩

/-- Settles O16: a run adds legal events and counts its reloads, and a reset empties both. -/
theorem stepKeepsTraceLegal : Obligations.StepKeepsTraceLegal :=
  step_keeps {
    pop := fun _ hs => traceLegal_of_eq hs rfl rfl rfl
    read := fun _ hs => traceLegal_of_eq hs rfl rfl rfl
    write := fun i v hs => by
      rw [hostWrite_does]
      exact traceLegal_of_eq hs rfl rfl rfl
    command := fun h hs => run_traceLegal (run_of_exec h) hs
    illegal := fun hs => run_traceLegal (run_illegalCommand _) hs
    reset := fun _ => traceLegal_of_empty rfl rfl rfl }

/-! ### STATUS -/

/-- What a register holds at reset: PWR is Blanked, the others 0 (70_reset_and_hazards.md R301). -/
theorem reset_reg (r : Reg) :
    State.reset.reg r = if (Reg.index r).val = 37 ∨ (Reg.index r).val = 45 then 1 else 0 :=
  reset_regs_getElem (Reg.index r).isLt

theorem statusLegal_congr {s t : State} (hstatus : t.reg .status = s.reg .status)
    (hphase : t.reg .phase = s.reg .phase) (hs : statusLegal s) : statusLegal t := by
  unfold statusLegal at *
  rwa [hstatus, hphase]

theorem statusLegal_reset : statusLegal State.reset := by
  unfold statusLegal
  rw [reset_reg, reset_reg]
  exact ⟨List.mem_cons_self, rfl⟩

/-- Settles O14: every command, the illegal one and a reset leave a legal STATUS, which the host cannot
write. -/
theorem stepKeepsStatusLegal : Obligations.StepKeepsStatusLegal :=
  step_keeps {
    pop := fun _ => statusLegal_congr rfl rfl
    read := fun _ => statusLegal_congr rfl rfl
    write := fun i v => statusLegal_congr (hostWrite_reg rfl i v _) (hostWrite_reg rfl i v _)
    command := fun h _ => ⟨status_mem_legalStatus h, phase_of_exec h⟩
    illegal := fun {s} _ => by
      obtain ⟨hstatus, hphase⟩ := illegalCommand_ended s
      exact ⟨by simp [hstatus, legalStatus], hphase⟩
    reset := fun _ => statusLegal_congr rfl rfl statusLegal_reset }

/-! ### A mode set by its steps -/

/-- A mode set that loses its pin is a SETBASE that loses it (47_modeset.md R239). -/
theorem modeset_eq_setbase (c : Ctrl) {s : State} (hformat : s.regNat .fbFormat ∈ [8, 15, 16, 24, 32])
    (hpin : s.nextPin = .fail) : exec (.modeset c) s = exec (.setbase c) s := by
  rw [← prologue_regNat_fbFormat] at hformat
  have hrun := setbaseRun_of_pinFails c hformat hpin
  rw [exec_eq_frame, exec_eq_frame]
  simp only [commandBody, frame, modesetBody_of_pinFailed (congrArg Prod.fst hrun)]

/-- A rule that does not look at STATUS and that every other command keeps is kept by MODESET
(47_modeset.md R236). -/
theorem modeset_keeps {P : State → Prop} (hstatus : ∀ {s : State} (w : Word), P s → P (s.setReg .status w))
    (hstep : ∀ {i : Instr} {s t : State}, (∀ c, i ≠ .modeset c) → exec i s = .next t → P s → P t)
    {i : Instr} {s t : State} (h : exec i s = .next t) (hs : P s) : P t := by
  by_cases hi : ∀ c, i ≠ .modeset c
  · exact hstep hi h hs
  · obtain ⟨c, rfl⟩ : ∃ c, i = .modeset c := by simpa using hi
    by_cases hpin : s.regNat .fbFormat ∈ [8, 15, 16, 24, 32] ∧ s.nextPin = .fail
    · rw [modeset_eq_setbase c hpin.1 hpin.2] at h
      exact hstep (by simp) h hs
    · obtain ⟨s1, s2, s3, s4, s5, h1, h2, h3, h4, h5, hall⟩ :=
        modesetIsFiveSteps c s (fun hformat hfail => hpin ⟨hformat, hfail⟩)
      have hp1 := hstep (by simp) h1 hs
      have hp2 := hstep (by simp) h2 hp1
      have hp3 := hstep (by simp) h3 hp2
      have hp4 := hstep (by simp) h4 hp3
      have hp5 := hstep (by simp) h5 hp4
      exact exec_unique hall h ▸ hstatus _ hp5

end Sys2Proof.Proofs.StepKeeps
end
section
/-! Every buffer that a controller scans out stays pinned (47_modeset.md R241): only SETBASE moves a current
framebuffer or a pin, and it pins the new buffer before it unpins the old one. -/

namespace Sys2Proof.Proofs.Pinned

open Sys2Proof Sys2Proof.Machine Sys2Proof.Safety Sys2Proof.Laws Sys2Proof.Proofs.Stepping
  Sys2Proof.Proofs.BaseAddress Sys2Proof.Proofs.Setbase Sys2Proof.Proofs.Operations
  Sys2Proof.Proofs.Commands Sys2Proof.Proofs.EveryCommand Sys2Proof.Proofs.Outcomes
  Sys2Proof.Proofs.StepKeeps

theorem scanoutPinned_congr {s t : State} (hreg : ∀ c, t.reg (.curfb c) = s.reg (.curfb c))
    (hpins : t.pins = s.pins) (hs : scanoutPinned s) : scanoutPinned t := by
  unfold scanoutPinned scannedBy State.pinCount at *
  rwa [hreg, hreg, hpins]

/-- The two controllers count alike. -/
theorem scannedBy_eq (s : State) (c : Ctrl) (g : Word) :
    scannedBy s g =
      (if s.reg (.curfb c) = g then 1 else 0) + (if s.reg (.curfb (other c)) = g then 1 else 0) := by
  cases c
  · rfl
  · exact Nat.add_comm _ _

/-- SETBASE that pins: one pin more of the new buffer pays for its scan-out, one fewer of a different old
buffer goes with the end of its scan-out. -/
theorem setbase_scanoutPinned {c : Ctrl} {s t : State} (h : exec (.setbase c) s = .next t)
    (hs : scanoutPinned s) : scanoutPinned t := by
  by_cases hformat : s.regNat .fbFormat ∈ [8, 15, 16, 24, 32]
  · cases hpin : s.nextPin with
    | fail =>
      obtain ⟨u, hexec, -, hregs, -, -, ⟨hpins, -⟩, -⟩ :=
        pinFailureAbortsUntouched c s hformat hpin (.setbase c) (by simp)
      rw [exec_unique h hexec]
      exact scanoutPinned_congr (fun d => hregs _ (by simp)) hpins hs
    | ok base tiling =>
      obtain ⟨bytes, hbytes⟩ := exists_bytes hformat
      obtain ⟨u, hexec, -, -, -, hcur, hcount, -, -, -, hregs, -⟩ :=
        setbaseProgramsBase c s bytes base tiling hbytes hpin
      rw [exec_unique h hexec]
      intro g hg
      have hpinned := hs g hg
      rw [scannedBy_eq s c] at hpinned
      rw [scannedBy_eq u c, hcur, hregs (.curfb (other c)) (by simp [other_ne]), hcount]
      generalize s.reg .fbHandle = new at *
      generalize s.reg (.curfb c) = old at *
      by_cases hnew : g = new
      · subst hnew
        by_cases hold : old = g
        · simp only [hold, if_true, ne_eq, not_true, false_and, and_false, if_false] at hpinned ⊢
          omega
        · simp only [hold, Ne.symm hold, if_true, and_false, if_false] at hpinned ⊢
          omega
      · by_cases hold : old = g
        · subst hold
          simp only [hnew, Ne.symm hnew, hg, ne_eq, not_false_eq_true, and_self, if_true, if_false]
            at hpinned ⊢
          omega
        · simp only [hnew, hold, Ne.symm hnew, Ne.symm hold, and_false, if_false] at hpinned ⊢
          omega
  · obtain ⟨u, hexec, -, hregs, -, hregsOnly⟩ := setbaseUnsupportedFormat c s hformat
    rw [exec_unique h hexec]
    exact scanoutPinned_congr (fun d => hregs _ (by simp)) (by rw [hregsOnly]) hs

/-- A command that writes no CURFB keeps every buffer pinned, and SETBASE does. -/
theorem exec_scanoutPinned {i : Instr} {s t : State} (hi : ∀ c, i ≠ .modeset c)
    (h : exec i s = .next t) (hs : scanoutPinned s) : scanoutPinned t := by
  by_cases hbase : ∃ c, i = .setbase c
  · obtain ⟨c, rfl⟩ := hbase
    exact setbase_scanoutPinned h hs
  · have hcurfb : ∀ d, Reg.curfb d ∉ commandRegs i := fun d hmem =>
      (curfb_mem_commandRegs hmem).elim (fun heq => hbase ⟨d, heq⟩) (hi d)
    have hrun := run_of_exec h
    exact scanoutPinned_congr (fun d => run_reg hrun (hcurfb d)) (run_pins hrun (hcurfb _)) hs

theorem setReg_status_curfb (s : State) (w : Word) (c : Ctrl) :
    (s.setReg .status w).reg (.curfb c) = s.reg (.curfb c) :=
  reg_setReg_ne s w (by simp)

/-- With no current framebuffer there is nothing to pin. -/
theorem scanoutPinned_of_zero {t : State} (h : ∀ c, t.reg (.curfb c) = 0) : scanoutPinned t := by
  intro g hg
  rw [scannedBy, h, h, if_neg (Ne.symm hg)]
  exact Nat.zero_le _

theorem reset_curfb (c : Ctrl) : State.reset.reg (.curfb c) = 0 := by
  rw [reset_reg]
  cases c <;> rfl

theorem hostWrite_pins (i : Fin 128) (v : Word) (s : State) : (hostWrite i v s).pins = s.pins := by
  rw [hostWrite_does]

/-- Settles O17: the pins go with CURFB under every command, and a reset clears CURFB. -/
theorem stepKeepsScanoutPinned : Obligations.StepKeepsScanoutPinned :=
  step_keeps {
    pop := fun _ => scanoutPinned_congr (fun _ => rfl) rfl
    read := fun _ => scanoutPinned_congr (fun _ => rfl) rfl
    write := fun i v => scanoutPinned_congr
      (fun c => hostWrite_reg (by cases c <;> rfl) i v _) (hostWrite_pins i v _)
    command := modeset_keeps (P := scanoutPinned)
      (fun w => scanoutPinned_congr (setReg_status_curfb _ w) rfl) exec_scanoutPinned
    illegal := fun {s} => scanoutPinned_congr
      (fun c => run_reg (run_illegalCommand s) (by simp)) (run_pins (run_illegalCommand s) (by simp))
    reset := fun _ => scanoutPinned_of_zero reset_curfb }

end Sys2Proof.Proofs.Pinned
end
section
/-! The per-controller state and the result registers stay legal (10_state.md R33 to R39). The rules fall into
groups, each about the registers of one computation, which few commands write. -/

namespace Sys2Proof.Proofs.Results

open Sys2Proof Sys2Proof.Machine Sys2Proof.Safety Sys2Proof.Laws Sys2Proof.Proofs.Solver
  Sys2Proof.Proofs.Gain Sys2Proof.Proofs.Scaler Sys2Proof.Proofs.Timing Sys2Proof.Proofs.Atomic
  Sys2Proof.Proofs.Dpms Sys2Proof.Proofs.Clock Sys2Proof.Proofs.Stepping
  Sys2Proof.Proofs.SolverEdges Sys2Proof.Proofs.Stretch Sys2Proof.Proofs.TimingProgram
  Sys2Proof.Proofs.Notify Sys2Proof.Proofs.Sequence Sys2Proof.Proofs.Operations
  Sys2Proof.Proofs.Commands Sys2Proof.Proofs.EveryCommand Sys2Proof.Proofs.Outcomes
  Sys2Proof.Proofs.StepKeeps

/-! ### A group of rules -/

/-- A rule about some registers that the host cannot write, which reset meets and which each command but
MODESET keeps when it writes one of them. -/
structure Group (rs : List Reg) (P : State → Prop) : Prop where
  congr : ∀ {s t : State}, (∀ r ∈ rs, t.reg r = s.reg r) → P s → P t
  readOnly : ∀ r ∈ rs, r ∉ [Reg.status, Reg.phase] ∧ hostWritable (Reg.index r).val = false
  command : ∀ {i : Instr} {s t : State}, (∀ c, i ≠ .modeset c) → (∃ r ∈ rs, r ∈ ownRegs i) →
    exec i s = .next t → P s → P t
  reset : P State.reset

theorem group_command {rs : List Reg} {P : State → Prop} (h : Group rs P) {i : Instr} {s t : State}
    (hi : ∀ c, i ≠ .modeset c) (hexec : exec i s = .next t) (hs : P s) : P t := by
  by_cases htouch : ∃ r ∈ rs, r ∈ ownRegs i
  · exact h.command hi htouch hexec hs
  · refine h.congr (fun r hr => run_reg (run_of_exec hexec) fun hmem => ?_) hs
    rcases List.mem_append.mp hmem with hframe | hown
    · exact (h.readOnly r hr).1 hframe
    · exact htouch ⟨r, hr, hown⟩

/-- Every step keeps such a rule. -/
theorem group_keeps {rs : List Reg} {P : State → Prop} (h : Group rs P) (s t : State) (hs : P s)
    (hstep : step s = .next t) : P t := by
  have hframe : ∀ r ∈ rs, r ∉ [Reg.status, Reg.phase] := fun r hr => (h.readOnly r hr).1
  refine step_keeps (P := P) ?_ s t hs hstep
  exact {
    pop := fun _ => h.congr (fun _ _ => rfl)
    read := fun _ => h.congr (fun _ _ => rfl)
    write := fun i v => h.congr (fun r hr => hostWrite_reg (h.readOnly r hr).2 i v _)
    command := modeset_keeps
      (fun w => h.congr fun r hr => reg_setReg_ne _ w
        (ne_of_mem_of_not_mem List.mem_cons_self (hframe r hr))) (group_command h)
    illegal := fun {s} => h.congr fun r hr => run_reg (run_illegalCommand s) (hframe r hr)
    reset := fun _ => h.congr (s := State.reset) (fun _ _ => rfl) h.reset }

/-- At reset every register but PWR is 0 (70_reset_and_hazards.md R301). -/
theorem reset_reg_zero {r : Reg} (h : ¬ ((Reg.index r).val = 37 ∨ (Reg.index r).val = 45)) :
    State.reset.reg r = 0 := by rw [reset_reg, if_neg h]

theorem reset_regNat_zero {r : Reg} (h : ¬ ((Reg.index r).val = 37 ∨ (Reg.index r).val = 45)) :
    State.reset.regNat r = 0 := by rw [State.regNat, reset_reg_zero h]; rfl

/-! ### PWR -/

/-- PWR is 0 or 1 (10_state.md R33). -/
def powerLegal (s : State) : Prop := ∀ c, s.reg (.pwr c) = 0 ∨ s.reg (.pwr c) = 1

theorem dpmsset_powerLegal {c : Ctrl} {level : Level} {s t : State}
    (h : exec (.dpmsset c level) s = .next t) (hs : powerLegal s) : powerLegal t := by
  obtain ⟨u, old, hexec, -, -, -, -, -, hpower, -, -, -, hregs, -⟩ := dpmssetWritesCtl c level s
  rw [exec_unique h hexec]
  intro d
  by_cases hd : d = c
  · subst hd
    rw [hpower]
    split_ifs
    · exact .inl rfl
    · exact .inr rfl
  · rw [hregs (.pwr d) (by simpa using hd)]
    exact hs d

theorem group_power : Group [.pwr .primary, .pwr .secondary] powerLegal where
  congr h hs c := by
    have hc : Reg.pwr c ∈ [Reg.pwr .primary, .pwr .secondary] := by cases c <;> decide
    rw [h _ hc]
    exact hs c
  readOnly := by decide
  command {i} _ _ hne htouch h hs := by
    cases i with
    | dpmsset c level => exact dpmsset_powerLegal h hs
    | modeset c => exact absurd rfl (hne c)
    | _ => simp [ownRegs, solRegs, tpRegs, scRegs, ovrRegs] at htouch
  reset c := .inr (by rw [reset_reg]; cases c <;> rfl)

/-! ### CURPOL -/

/-- CURPOL[0] is a policy and CURPOL[1] is Off (10_state.md R34). -/
def policyLegal (s : State) : Prop := s.regNat (.curpol .primary) ≤ 3 ∧ s.reg (.curpol .secondary) = 0

theorem policyNum_le (s : State) : policyNum s ≤ 3 :=
  Nat.le_of_lt_succ (Nat.mod_lt _ (by decide))

theorem scalprog_policyLegal {c : Ctrl} {s t : State} (h : exec (.scalprog c) s = .next t)
    (hs : policyLegal s) : policyLegal t := by
  obtain ⟨hpri, hsec⟩ := hs
  have hother : ∀ {d : Ctrl}, d ≠ c → t.reg (.curpol d) = s.reg (.curpol d) := by
    intro d hd
    refine run_reg (run_of_exec h) fun hmem => ?_
    rcases curpol_mem_commandRegs hmem with heq | heq
    · exact hd (Instr.scalprog.inj heq).symm
    · nomatch heq
  cases c with
  | primary =>
    obtain ⟨u, hexec, -, hpolicy, -⟩ := exec_scalprog_primary s
    rw [← exec_unique h hexec] at hpolicy
    refine ⟨hpolicy ▸ policyNum_le s, ?_⟩
    rw [hother (by decide), hsec]
  | secondary =>
    refine ⟨by rwa [State.regNat, hother (by decide)], ?_⟩
    obtain ⟨hoff, herror⟩ := scalprogSecondaryTestsPolicy s
    by_cases hpolicy : policyNum s = 0
    · obtain ⟨u, hexec, hcurpol, -⟩ := hoff hpolicy
      rw [exec_unique h hexec, hcurpol]
    · obtain ⟨u, hexec, -, hregs, -⟩ := herror hpolicy
      rw [exec_unique h hexec, hregs _ (by decide), hsec]

theorem group_policy : Group [.curpol .primary, .curpol .secondary] policyLegal where
  congr h hs := by
    unfold policyLegal State.regNat at *
    simpa (disch := decide) only [h] using hs
  readOnly := by decide
  command {i} _ _ hne htouch h hs := by
    cases i with
    | scalprog c => exact scalprog_policyLegal h hs
    | modeset c => exact absurd rfl (hne c)
    | _ => simp [ownRegs, solRegs, tpRegs, scRegs, ovrRegs] at htouch
  reset := by
    unfold policyLegal
    rw [reset_regNat_zero (by decide), reset_reg_zero (by decide)]
    decide

/-! ### SOL_* and G_OUT -/

/-- The codes of the gain register, and 0 at reset (42_gain_classifier.md R131). -/
theorem gainOf_mem (refFreq r f : Nat) : gainOf refFreq r f ∈ [0, 1, 4, 7] := by
  unfold gainOf
  split_ifs <;> decide

/-- A solution in form (41_pll_solver.md R114 to R118). -/
def LegalSolution (q : PllSolution) : Prop := q.frac = 0 ∧ q.pcode ≤ 7 ∧ q.gain ∈ [0, 1, 4, 7]

theorem solved_legal (c : Ctrl) (s : State) : LegalSolution (s.solved msc1 c) := by
  by_cases hcand : ∃ r f i p, IsCandidate s c r f i p
  · obtain ⟨r, f, i, p, hsol, -, hsolved⟩ := solved_of_candidate hcand
    obtain ⟨-, -, hi, -⟩ := isCandidate_bounds hsol
    rw [hsolved]
    exact ⟨rfl, Nat.le_of_lt_succ hi, gainOf_mem _ _ _⟩
  · rw [solved_of_no_candidate fun r f i p hc => hcand ⟨r, f, i, p, hc⟩]
    unfold LegalSolution
    decide

theorem honoured_legal (c : Ctrl) (s : State) : LegalSolution (s.honoured msc1 c) := by
  have hcode : (s.honoured msc1 c).pcode = postCode (s.regNat .xPost) := postCodeOf_msc1 _
  exact ⟨rfl, hcode ▸ postCode_le _, gainOf_mem _ _ _⟩

theorem solution_legal (c : Ctrl) (s : State) : LegalSolution (s.solution msc1 c) := by
  unfold State.solution
  split_ifs
  · exact honoured_legal c s
  · exact solved_legal c s

/-- The fields of SOL_* that are bounded (10_state.md R35). -/
def solutionLegal (s : State) : Prop :=
  s.reg .solFrac = 0 ∧ s.regNat .solPcode ≤ 7 ∧ s.regNat .solGain ∈ [0, 1, 4, 7]

theorem solutionLegal_of_holds {q : PllSolution} {t : State} (hq : LegalSolution q)
    (h : HoldsSolution q t) : solutionLegal t := by
  obtain ⟨hfrac, hpcode, hgain⟩ := hq
  obtain ⟨-, -, tfrac, -, tpcode, -, tgain⟩ := h
  have hall : ∀ n ∈ [0, 1, 4, 7], n < 2 ^ 32 := by decide
  refine ⟨tfrac.trans (congrArg (BitVec.ofNat 32) hfrac), ?_, ?_⟩
  · rwa [regNat_of_reg_eq_ofNat tpcode (by omega)]
  · rwa [regNat_of_reg_eq_ofNat tgain (hall _ hgain)]

theorem group_solution : Group [.solFrac, .solPcode, .solGain] solutionLegal where
  congr h hs := by
    unfold solutionLegal State.regNat at *
    simpa (disch := decide) only [h] using hs
  readOnly := by decide
  command {i s _} hne htouch h _ := by
    cases i with
    | pllsolve c =>
      obtain ⟨u, hexec, hholds, -, -⟩ := exec_pllsolve c s
      exact exec_unique hexec h ▸ solutionLegal_of_holds (solved_legal c s) hholds
    | pllprog c =>
      rw [eq_frame_of_exec h]
      exact solutionLegal_of_holds (solution_legal c s) (pllprog_holdsSolution c s)
    | modeset c => exact absurd rfl (hne c)
    | _ => simp [ownRegs, tpRegs, scRegs, ovrRegs] at htouch
  reset := by
    unfold solutionLegal
    rw [reset_reg_zero (by decide), reset_regNat_zero (by decide), reset_regNat_zero (by decide)]
    decide

/-- G_OUT holds a code of the gain register, or 0 as at reset (42_gain_classifier.md R131). -/
def gainLegal (s : State) : Prop := s.regNat .gOut ∈ [0, 1, 4, 7]

theorem group_gain : Group [.gOut] gainLegal where
  congr h hs := by
    unfold gainLegal State.regNat at *
    simpa (disch := decide) only [h] using hs
  readOnly := by decide
  command {i s _} hne htouch h _ := by
    cases i with
    | gaincls =>
      obtain ⟨u, hexec, hout, -, -⟩ := exec_gaincls s
      have hgain := gainOf_mem (s.regNat .gReffreq) (s.regNat .gRef) (s.regNat .gFb)
      rw [← exec_unique h hexec] at hout
      rw [gainLegal, regNat_gOut_of_operandGain hout, operandGain, gainCode_msc1]
      exact hgain
    | modeset c => exact absurd rfl (hne c)
    | _ => simp [ownRegs, solRegs, tpRegs, scRegs, ovrRegs] at htouch
  reset := by
    unfold gainLegal
    rw [reset_regNat_zero (by decide)]
    decide

/-! ### WAITCNT -/

/-- WAITCNT is at most `WAIT_BOUND` (45_atomic_update.md R202, R206). -/
def waitLegal (s : State) : Prop := s.regNat .waitcnt ≤ 10000

theorem wait_le_of_commitShape {s t : State} {c : Ctrl} {n : Nat} {h1 h2 : Word}
    {first second : List Word} {es : List Event} (h : CommitShape s t c n h1 h2 first second es) :
    second.length ≤ 10000 := by
  obtain ⟨-, ⟨-, hle, -⟩, -⟩ := h
  exact hle

theorem slowPath_waitLegal (c : Ctrl) (s : State) : waitLegal (slowPath msc1 c s) := by
  obtain ⟨first, second, es, hshape, -, hcount⟩ := slowPath_does c s
  rw [waitLegal, hcount]
  exact wait_le_of_commitShape hshape

theorem waitLegal_congr {s t : State} (h : t.reg .waitcnt = s.reg .waitcnt) (hs : waitLegal s) :
    waitLegal t := by
  unfold waitLegal State.regNat at *
  rwa [h]

/-- PLLPROG commits, or takes the fast path, which does not wait (47_modeset.md R248, R249). -/
theorem pllprog_waitLegal {c : Ctrl} {s t : State} (h : exec (.pllprog c) s = .next t)
    (hs : waitLegal s) : waitLegal t := by
  have hframe : t.reg .waitcnt = (pllprogBody msc1 c (prologue s)).reg .waitcnt := by
    rw [eq_frame_of_exec h, frame_reg, if_neg (by decide), if_neg (by decide)]
    rfl
  cases hcaps : testBit (s.reg .caps) 0 with
  | false =>
    rw [pllprogBody_insensitive hcaps] at hframe
    exact waitLegal_congr hframe (slowPath_waitLegal _ _)
  | true =>
    have hbody := pllprogBody_sensitive (c := c) hcaps
    split_ifs at hbody
    · obtain ⟨⟨hregs, -⟩, -⟩ := pllprog_fast hbody
      rw [eq_frame_of_exec h]
      exact waitLegal_congr (hregs _ (by decide)) hs
    · rw [hbody] at hframe
      exact waitLegal_congr hframe (slowPath_waitLegal _ _)

theorem group_wait : Group [.waitcnt] waitLegal where
  congr h := waitLegal_congr (h _ (by decide))
  readOnly := by decide
  command {i s _} hne htouch h hs := by
    cases i with
    | pllcommit c =>
      obtain ⟨u, first, second, es, hexec, hshape, hcount, -, -⟩ := exec_pllcommit c s
      rw [exec_unique h hexec, waitLegal, hcount]
      exact wait_le_of_commitShape hshape
    | pllprog c => exact pllprog_waitLegal h hs
    | modeset c => exact absurd rfl (hne c)
    | _ => simp [ownRegs, solRegs, tpRegs, scRegs, ovrRegs] at htouch
  reset := by
    unfold waitLegal
    rw [reset_regNat_zero (by decide)]
    decide

/-! ### The timing words -/

/-- A field has no bit of a mask that is apart from it. -/
theorem fieldAt_and {n k : Nat} {mask : Word} (h : fieldMask ⟨n, k⟩ &&& mask = 0) (v : Int) :
    fieldAt v n k &&& mask = 0 := by
  apply BitVec.eq_of_getLsbD_eq
  intro i _
  have hbit := congrArg (fun w : Word => w.getLsbD i) h
  simp only [BitVec.getLsbD_and, getLsbD_fieldMask, getLsbD_fieldAt] at hbit ⊢
  rw [Bool.and_right_comm, hbit]
  simp

theorem bitIf_and {k : Nat} {mask : Word} (h : bitWord k &&& mask = 0) (b : Bool) :
    bitIf b k &&& mask = 0 := by
  cases b
  · exact BitVec.zero_and
  · exact h

/-- The unnamed bits of a horizontal total/display word (10_state.md R42). -/
theorem totalDispWord_and (total disp : Int) : totalDispWord 10 9 total disp &&& 0xFE00FC00#32 = 0 := by
  rw [totalDispWord, BitVec.and_or_distrib_right, fieldAt_and (by decide), fieldAt_and (by decide)]
  rfl

/-- The unnamed bits of a horizontal sync word (10_state.md R43). -/
theorem hsyncWord_and (m : DisplayMode) (start : Int) : hsyncWord msc1 m start &&& 0xFF40E000#32 = 0 := by
  rw [hsyncWord, BitVec.and_or_distrib_right, BitVec.and_or_distrib_right, fieldAt_and (by decide),
    fieldAt_and (by decide), bitIf_and (by decide)]
  rfl

/-- The unnamed bits of a vertical sync word (10_state.md R45). -/
theorem vsyncWord_and (m : DisplayMode) (start : Int) : vsyncWord msc1 m start &&& 0xFF60F000#32 = 0 := by
  rw [vsyncWord, BitVec.and_or_distrib_right, BitVec.and_or_distrib_right, fieldAt_and (by decide),
    fieldAt_and (by decide), bitIf_and (by decide)]
  rfl

theorem packVariant_timingLegal (v : Variant) (m : DisplayMode) :
    timingLegal (packVariant msc1 v m).htd (packVariant msc1 v m).hsw (packVariant msc1 v m).vsw := by
  cases v <;> exact ⟨totalDispWord_and _ _, hsyncWord_and _ _, vsyncWord_and _ _⟩

/-- The TP_* words (10_state.md R42, R43, R45, 44_timing_packer.md R188). -/
def packedLegal (s : State) : Prop :=
  s.regNat .tpCtl ∈ [0, 1, 0x71] ∧ timingLegal (s.reg .tpHtd) (s.reg .tpHsw) (s.reg .tpVsw)

theorem ctlWord_toNat_mem (s : State) (c : Ctrl) : (ctlWord s c).toNat ∈ [0, 1, 0x71] := by
  cases c with
  | primary => exact List.mem_cons_self
  | secondary =>
    unfold ctlWord
    split_ifs <;> decide

theorem packedLegal_of_holds {s t : State} {c : Ctrl} {v : Variant} {m : DisplayMode}
    (h : HoldsTiming (packVariant msc1 v m) t) (hctl : t.reg .tpCtl = ctlWord s c) : packedLegal t := by
  obtain ⟨hhtd, hhsw, -, hvsw⟩ := h
  rw [packedLegal, State.regNat, hctl, hhtd, hhsw, hvsw]
  exact ⟨ctlWord_toNat_mem s c, packVariant_timingLegal v m⟩

/-- A value is one word's. -/
theorem eq_of_wordIs {v w : Word} {n : Int} (hv : WordIs v n) (hw : WordIs w n) : v = w :=
  BitVec.eq_of_toNat_eq (Int.ofNat.inj (hv.trans hw.symm))

theorem holdsTiming_of_holdsStandard {s t : State} (h : HoldsStandard s t) :
    HoldsTiming (packVariant msc1 .std s.mode) t := by
  obtain ⟨hhtd, hhsw, hvtd, hvsw⟩ := h
  exact ⟨eq_of_wordIs hhtd (packStd_htd s), eq_of_wordIs hhsw (packStd_hsw s),
    eq_of_wordIs hvtd (packStd_vtd s), eq_of_wordIs hvsw (packStd_vsw s)⟩

/-- TIMPROG leaves the standard words and the control word, on both controllers. -/
theorem timprog_holds {c : Ctrl} {s t : State} (h : exec (.timprog c) s = .next t) :
    HoldsStandard s t ∧ t.reg .tpCtl = ctlWord s c := by
  rw [eq_frame_of_exec h]
  cases c with
  | primary =>
    obtain ⟨hholds, hctl, -⟩ := timprog_does (c := .primary) (u := timed .primary s) rfl (ran_refl _)
    exact ⟨hholds, hctl⟩
  | secondary =>
    obtain ⟨hholds, hctl, -⟩ := timprog_does (c := .secondary) rfl (programCtl_secondary s).1
    exact ⟨hholds, hctl⟩

theorem group_packed : Group [.tpCtl, .tpHtd, .tpHsw, .tpVsw] packedLegal where
  congr h hs := by
    unfold packedLegal State.regNat at *
    simpa (disch := decide) only [h] using hs
  readOnly := by decide
  command {i s _} hne htouch h _ := by
    cases i with
    | timpack c v =>
      obtain ⟨u, hexec, hholds, hctl, -, -⟩ := exec_timpack c v s
      exact exec_unique hexec h ▸ packedLegal_of_holds hholds hctl
    | timprog c =>
      obtain ⟨hholds, hctl⟩ := timprog_holds h
      exact packedLegal_of_holds (holdsTiming_of_holdsStandard hholds) hctl
    | modeset c => exact absurd rfl (hne c)
    | _ => simp [ownRegs, solRegs, scRegs, ovrRegs] at htouch
  reset := by
    unfold packedLegal timingLegal
    rw [reset_regNat_zero (by decide), reset_reg_zero (by decide), reset_reg_zero (by decide),
      reset_reg_zero (by decide)]
    decide

/-! ### The scaler words -/

/-- The SC_* words (10_state.md R36, 43_scaler.md R148 to R152). -/
def scalerLegal (s : State) : Prop :=
  timingLegal (s.reg .scPtHtd) (s.reg .scPtHsw) (s.reg .scPtVsw) ∧
    stretchLegal (s.reg .scHstr) ∧ stretchLegal (s.reg .scVstr) ∧ overridesLegal s

/-- A result of the scaler has the center bits and the center timing, or neither (43_scaler.md R148,
R149). -/
theorem scaler_overrides (m : DisplayMode) (pw ph : Nat) (pol : Policy) (hinc vinc : Bool) :
    let q := scaler msc1 m pw ph pol hinc vinc
    (q.overrides = none ∧ q.center = 0) ∨
      ∃ o, q.overrides = some o ∧ o.timing = packVariant msc1 .center m ∧ q.center = 3 := by
  intro q
  by_cases hpanel : pw = 0 ∨ ph = 0
  · exact .inl (by simp only [q, scaler_no_panel _ _ _ _ _ hpanel, scalerFallback, and_self])
  · cases pol with
    | off => exact .inl (by simp only [q, scaler_off, scalerFallback, and_self])
    | full => exact .inl (by simp only [q, scaler_full _ _ _ _ hpanel, scalerStretch, and_self])
    | aspect => exact .inl (by simp only [q, scaler_aspect _ _ _ _ hpanel, scalerStretch, and_self])
    | center =>
      simp only [q, scaler_center _ _ _ _ hpanel, scalerCenter]
      exact .inr ⟨_, rfl, rfl, centerBits_msc1⟩

theorem scalerLegal_of_holds {s t : State} {hinc vinc : Bool}
    (h : HoldsResult (s.scaled msc1 hinc vinc) t) : scalerLegal t := by
  obtain ⟨hhword, hvword⟩ := scaler_axisWords s.mode (s.regNat .pW) (s.regNat .pH)
    (policyOf (s.reg .sPolicy)) hinc vinc
  have hcases := scaler_overrides s.mode (s.regNat .pW) (s.regNat .pH) (policyOf (s.reg .sPolicy)) hinc vinc
  rw [State.scaled] at h
  generalize scaler msc1 s.mode (s.regNat .pW) (s.regNat .pH) (policyOf (s.reg .sPolicy)) hinc vinc = q
    at h hhword hvword hcases
  have hq := h
  obtain ⟨hhstr, hvstr, hcenter, hovr, htimings⟩ := hq
  obtain ⟨hhtd, hhsw, -, hvsw, -, -⟩ := htimings
  have hstretch : stretchLegal (t.reg .scHstr) ∧ stretchLegal (t.reg .scVstr) := by
    rw [hhstr, hvstr]
    exact ⟨stretchLegal_of_axisWord hhword, stretchLegal_of_axisWord hvword⟩
  rcases hcases with ⟨hnone, hzero⟩ | ⟨o, hsome, htiming, hthree⟩
  · obtain ⟨hscOvr, hsix⟩ := overrides_zero h hnone
    refine ⟨?_, hstretch.1, hstretch.2, .inr ⟨hscOvr, hcenter.trans hzero, hsix⟩⟩
    rw [hsix _ (by decide), hsix _ (by decide), hsix _ (by decide)]
    exact ⟨BitVec.zero_and, BitVec.zero_and, BitVec.zero_and⟩
  · rw [hsome] at hovr hhtd hhsw hvsw
    refine ⟨?_, hstretch.1, hstretch.2, .inl ⟨hovr, hcenter.trans hthree⟩⟩
    rw [hhtd, hhsw, hvsw, Option.getD_some, htiming]
    exact packVariant_timingLegal .center s.mode

/-- The secondary has no scaler to program (47_modeset.md R256). -/
theorem scalprog_secondary_scRegs {s t : State} (h : exec (.scalprog .secondary) s = .next t) :
    ∀ r ∈ scRegs, t.reg r = s.reg r := by
  have hdisj : ∀ r ∈ scRegs,
      r ∉ [Reg.curpol .secondary, .status, .phase] ∧ r ∉ [Reg.status, .phase] := by decide
  obtain ⟨hoff, herror⟩ := scalprogSecondaryTestsPolicy s
  intro r hr
  by_cases hpolicy : policyNum s = 0
  · obtain ⟨u, hexec, -, -, hregs, -⟩ := hoff hpolicy
    rw [exec_unique h hexec, hregs r (hdisj r hr).1]
  · obtain ⟨u, hexec, -, hregs, -⟩ := herror hpolicy
    rw [exec_unique h hexec, hregs r (hdisj r hr).2]

theorem scalerLegal_congr {s t : State} (h : ∀ r ∈ scRegs, t.reg r = s.reg r) (hs : scalerLegal s) :
    scalerLegal t := by
  have hovr : ∀ r ∈ ovrRegs, t.reg r = s.reg r := fun r hr => h r (List.mem_append_right _ hr)
  obtain ⟨htiming, hhstr, hvstr, hcases⟩ := hs
  refine ⟨?_, ?_, ?_, ?_⟩
  · rwa [h _ (by decide), h _ (by decide), h _ (by decide)]
  · rwa [h _ (by decide)]
  · rwa [h _ (by decide)]
  · rcases hcases with ⟨hone, hthree⟩ | ⟨hzero, hcenter, hsix⟩
    · exact .inl ⟨(h _ (by decide)).trans hone, (h _ (by decide)).trans hthree⟩
    · exact .inr ⟨(h _ (by decide)).trans hzero, (h _ (by decide)).trans hcenter,
        fun r hr => (hovr r hr).trans (hsix r hr)⟩

theorem group_scaler : Group scRegs scalerLegal where
  congr := scalerLegal_congr
  readOnly := by decide
  command {i s _} hne htouch h hs := by
    cases i with
    | scalcomp =>
      obtain ⟨u, hexec, hholds, -, -⟩ := exec_scalcomp s
      exact exec_unique hexec h ▸ scalerLegal_of_holds hholds
    | scalprog c =>
      cases c with
      | primary =>
        obtain ⟨u, hexec, hholds, -⟩ := exec_scalprog_primary s
        exact exec_unique hexec h ▸ scalerLegal_of_holds hholds
      | secondary => exact scalerLegal_congr (scalprog_secondary_scRegs h) hs
    | modeset c => exact absurd rfl (hne c)
    | _ => simp [ownRegs, solRegs, tpRegs, scRegs, ovrRegs] at htouch
  reset := by
    have hzero : ∀ r ∈ scRegs, State.reset.reg r = 0 := by
      have hindex : ∀ r ∈ scRegs, ¬ ((Reg.index r).val = 37 ∨ (Reg.index r).val = 45) := by decide
      exact fun r hr => reset_reg_zero (hindex r hr)
    refine ⟨?_, ?_, ?_, .inr ⟨hzero _ (by decide), hzero _ (by decide),
      fun r hr => hzero r (List.mem_append_right _ hr)⟩⟩
    · rw [hzero _ (by decide), hzero _ (by decide), hzero _ (by decide)]
      exact ⟨rfl, rfl, rfl⟩
    · rw [hzero _ (by decide)]
      unfold stretchLegal
      decide
    · rw [hzero _ (by decide)]
      unfold stretchLegal
      decide

/-! ### The whole rule -/

theorem resultsLegal_iff (s : State) :
    resultsLegal s ↔ powerLegal s ∧ policyLegal s ∧ solutionLegal s ∧ gainLegal s ∧ waitLegal s ∧
      packedLegal s ∧ scalerLegal s := by
  unfold resultsLegal powerLegal policyLegal solutionLegal gainLegal waitLegal packedLegal scalerLegal
  tauto

/-- Settles O15: each group of rules is kept. -/
theorem stepKeepsResultsLegal : Obligations.StepKeepsResultsLegal := by
  intro s t hs h
  rw [resultsLegal_iff] at hs ⊢
  obtain ⟨hpower, hpolicy, hsolution, hgain, hwait, hpacked, hscaler⟩ := hs
  exact ⟨group_keeps group_power s t hpower h, group_keeps group_policy s t hpolicy h,
    group_keeps group_solution s t hsolution h, group_keeps group_gain s t hgain h,
    group_keeps group_wait s t hwait h, group_keeps group_packed s t hpacked h,
    group_keeps group_scaler s t hscaler h⟩

end Sys2Proof.Proofs.Results
end

section
/-! The whole invariant of the machine between host operations (10_state.md sections 2 to 6). -/

namespace Sys2Proof.Proofs.Invariant

open Sys2Proof Sys2Proof.Machine Sys2Proof.Safety Sys2Proof.Proofs.StepKeeps Sys2Proof.Proofs.Pinned
  Sys2Proof.Proofs.Results

theorem storageLegal_reset : storageLegal State.reset :=
  ⟨rfl, rfl, rfl, List.forall_mem_nil _, List.forall_mem_nil _⟩

theorem resultsLegal_reset : resultsLegal State.reset :=
  (resultsLegal_iff _).mpr ⟨group_power.reset, group_policy.reset, group_solution.reset, group_gain.reset,
    group_wait.reset, group_packed.reset, group_scaler.reset⟩

/-- Settles O12: part by part. -/
theorem resetMeetsInvariant : Obligations.ResetMeetsInvariant :=
  ⟨storageLegal_reset, statusLegal_reset, resultsLegal_reset, traceLegal_of_empty rfl rfl rfl,
    scanoutPinned_of_zero reset_curfb⟩

/-- Settles O18: each part of the invariant is kept by itself. -/
theorem stepKeepsInvariant : Obligations.StepKeepsInvariant := by
  rintro s t ⟨hstorage, hstatus, hresults, htrace, hpinned⟩ h
  exact ⟨stepKeepsStorageLegal s t hstorage h, stepKeepsStatusLegal s t hstatus h,
    stepKeepsResultsLegal s t hresults h, stepKeepsTraceLegal s t htrace h,
    stepKeepsScanoutPinned s t hpinned h⟩

end Sys2Proof.Proofs.Invariant
end
